-- ==== Sys2Proof/Word.lean ====
section
/-! DEFINITION. The word types of SRAC: 32-bit registers and command words (00_scope.md R6 `REG_WIDTH`),
the bytes of the two buses, and the 64-bit values of the datapath (R8). -/

namespace Sys2Proof

/-- A 32-bit host register or command word. -/
abbrev Word := BitVec 32

/-- A byte of the I2C bus or of the single wire. -/
abbrev Byte := BitVec 8

/-- A 64-bit value: the wide pressure datapath and the bits of a binary64. -/
abbrev Dword := BitVec 64

end Sys2Proof
end

