-- ==== Sys2Proof/Config.lean ====
section
/-! DEFINITION. The implementation parameters of 00_scope.md R6. The two OPEN ones are opaque: nothing can be
proved of their value. The others stand at the value R6 fixes for SRAC-1. -/

namespace Sys2Proof.Config

/-- `BLOCK_BASE` (R6, OPEN; 92 D2): the host address of offset 0 of the register window. Log 6. -/
opaque blockBase : Nat

/-- `T_SRST_WAIT` in µs (R6, OPEN; 92 D36, R720): the wait the HOST owes after `SRST`. The block neither
enforces nor measures it. Log 20. -/
opaque tSrstWait : Nat

/-- `WINDOW_SIZE`: the register window in bytes. -/
def windowSize : Nat := 0x200

/-- `DEVADDR_RESET`: the reset value of `A_CTRL.DEVADDR`. -/
def devAddrReset : BitVec 7 := 0x76

/-- `CHIP_ID_OK`. -/
def chipIdOk : Byte := 0x60

/-- `CHIP_ID_WRONG`: the ids of a different known chip family. -/
def chipIdWrong : List Byte := [0x58, 0x56]

/-- `T_RSTL`: reset pulse, line driven low (µs). Log 21 for this and the timings below. -/
def tRstl : Nat := 480

/-- `T_PDS`: release to presence sample. -/
def tPds : Nat := 70

/-- `T_RSTR`: presence sample to end of recovery. -/
def tRstr : Nat := 410

/-- `T_W1L`: write-1 slot, low time. -/
def tW1l : Nat := 15

/-- `T_W1R`: write-1 slot, release time. -/
def tW1r : Nat := 65

/-- `T_W0L`: write-0 slot, low time. -/
def tW0l : Nat := 60

/-- `T_W0R`: write-0 slot, release time. -/
def tW0r : Nat := 20

/-- `T_RL`: read slot, low time. -/
def tRl : Nat := 10

/-- `T_RS`: read slot, release to sample. -/
def tRs : Nat := 5

/-- `T_RR`: read slot, sample to end of slot. -/
def tRr : Nat := 45

/-- `CONV_POLL_MAX`: the most busy polls after convert. -/
def convPollMax : Nat := 750

/-- `CONV_POLL_DELAY`: the delay after each busy poll (µs). -/
def convPollDelay : Nat := 1000

/-- `CRC_INIT`: the initial value of the CRC8 register. -/
def crcInit : Byte := 0x00

end Sys2Proof.Config
end

