-- ==== Sys2Proof/Syntax.lean ====
section
/-! DEFINITION. The syntax of SRAC: the 26 rows of spec/opcode_table.json as `Instr` (30_encoding.md R153, R154,
R170), the channels, and the statements of a host program (R175, R176). -/

namespace Sys2Proof

/-- The two command channels (00_scope.md R1). -/
inductive Channel where
  | a
  | b
deriving DecidableEq, Repr

/-- The 22 host commands (30_encoding.md R153, R154) and the four single-wire command bytes the block sends (R170). -/
inductive Instr where
  /-- `A.ID` (R200) -/
  | aId
  /-- `A.SRST` (R210) -/
  | aSrst
  /-- `A.LDCAL` (R220) -/
  | aLdcal
  /-- `A.CFG` (R230) -/
  | aCfg
  /-- `A.STAT` (R240) -/
  | aStat
  /-- `A.RDRAW` (R250) -/
  | aRdraw
  /-- `A.COMPT` (R300) -/
  | aCompt
  /-- `A.COMPP` (R310) -/
  | aCompp
  /-- `A.COMPP64` (R320) -/
  | aCompp64
  /-- `A.COMPH` (R330) -/
  | aComph
  /-- `A.COMPHF` (R341) -/
  | aComphf
  /-- `A.EST` (R350) -/
  | aEst
  /-- `B.OWRST` (R410) -/
  | bOwrst
  /-- `B.OWWBIT` (R420) -/
  | bOwwbit
  /-- `B.OWRBIT` (R430) -/
  | bOwrbit
  /-- `B.OWWBYTE` (R440) -/
  | bOwwbyte
  /-- `B.OWRBYTE` (R445) -/
  | bOwrbyte
  /-- `B.OWINIT` (R450) -/
  | bOwinit
  /-- `B.OWCONV` (R460) -/
  | bOwconv
  /-- `B.OWRSP` (R470) -/
  | bOwrsp
  /-- `B.OWDEC` (R480) -/
  | bOwdec
  /-- `B.CRC8` over `len` bytes (R163, R510); `len` is the `LEN` field of the word -/
  | bCrc8 (len : Nat)
  /-- `OW.SKIP_ROM`: the byte 0xCC on the single wire (R170) -/
  | owSkipRom
  /-- `OW.CONVERT_T`: the byte 0x44 (R170) -/
  | owConvertT
  /-- `OW.READ_SCRATCHPAD`: the byte 0xBE (R170) -/
  | owReadScratchpad
  /-- `OW.WRITE_SCRATCHPAD`: the byte 0x4E (R170) -/
  | owWriteScratchpad
deriving DecidableEq, Repr

/-- The statements of a host program (R175). `wr` and `rd` name their register by its offset and carry the access
width in bits, so that an access R31 refuses can be written down. `poll` is the loop of R176. `expect` is the
test-only assertion. `cmd`, `exec` and `setcfg` expand to these (Machine/HostAgent.lean). -/
inductive HostStmt where
  | wr (width offset : Nat) (value : Word)
  | rd (width offset : Nat)
  | poll (ch : Channel)
  | expect (offset : Nat) (value : Word)
deriving DecidableEq, Repr

end Sys2Proof
end

