-- ==== Sys2Proof/Machine/State.lean ====
section
/-! DEFINITION. The state of SRAC as plain data (10_state.md), the environment it runs in (its host's program, its
oracles' answers, the schedule of turns), and its value after block reset (R60). -/

namespace Sys2Proof.Machine

/-- The completion codes (60_exceptions.md R600). The type has exactly the nine codes, so that `ERR` can hold no other. -/
inductive ErrCode where
  | ok
  | transportError
  | deviceNotFound
  | invalidCalibration
  | crcMismatch
  | conversionTimeout
  | illegalCommand
  | illegalOperand
  | calLocked
deriving DecidableEq, Repr

/-- Four 32-bit registers: `x_ARG0..3` (R43) or `x_RES0..3` (R44). -/
structure Quad where
  r0 : Word
  r1 : Word
  r2 : Word
  r3 : Word
deriving DecidableEq, Repr

/-- The calibration bank (R45), each coefficient at its own width; its register shows it widened (log 15). -/
structure Cal where
  t1 : BitVec 16
  t2 : BitVec 16
  t3 : BitVec 16
  p1 : BitVec 16
  p2 : BitVec 16
  p3 : BitVec 16
  p4 : BitVec 16
  p5 : BitVec 16
  p6 : BitVec 16
  p7 : BitVec 16
  p8 : BitVec 16
  p9 : BitVec 16
  h1 : Byte
  h2 : BitVec 16
  h3 : Byte
  h4 : BitVec 16
  h5 : BitVec 16
  h6 : Byte
deriving DecidableEq, Repr

/-- The scratchpad bank (R47): `B_SP0`, `B_SP1`, and byte 8, which `B_SP2` shows zero-extended (log 16). -/
structure Scratchpad where
  sp0 : Word
  sp1 : Word
  sp2 : Byte
deriving DecidableEq, Repr

/-- An answer of the I2CDEV oracle (00_scope.md R11). `ok` carries the bytes of a read, none for a write. -/
inductive I2cAnswer where
  | ok (bytes : List Byte)
  | addrNack
  | fail
deriving DecidableEq, Repr

/-- One event of the channel-A bus trace (R59). -/
inductive EventA where
  | memRead (dev : BitVec 7) (addr : Byte) (n : Nat) (answer : I2cAnswer)
  | memWrite (dev : BitVec 7) (addr : Byte) (bytes : List Byte) (answer : I2cAnswer)
deriving DecidableEq, Repr

/-- One event of the channel-B bus trace (R59); times in µs. -/
inductive EventB where
  | driveLow (t : Nat)
  | release (t : Nat)
  | wait (t : Nat)
  | sample (level : Bool)
deriving DecidableEq, Repr

/-- The line-drive state `LINE` (R57). -/
inductive LineDrive where
  | released
  | low
deriving DecidableEq, Repr

/-- `phase` of channel A (R50): `prim k` after `k` primitives, or `raised c` once an answer has raised `c` (log 11). -/
inductive PhaseA where
  | prim (k : Nat)
  | raised (code : ErrCode)
deriving DecidableEq, Repr

/-- `EXEC(op, args, dev, phase, staged)` of channel A (R50). `staged` holds the bytes of each completed read (log 10). -/
structure ExecA where
  op : Word
  args : Quad
  dev : BitVec 7
  phase : PhaseA
  staged : List (List Byte)
deriving DecidableEq, Repr

/-- The channel-A sequencer (R50). -/
inductive SeqA where
  | idle
  | exec (e : ExecA)
deriving DecidableEq, Repr

/-- `phase` of channel B (R50): the line of the command's pseudocode, and how many primitives of that line's slot
sequence are done (log 11). -/
structure PhaseB where
  line : Nat
  sub : Nat
deriving DecidableEq, Repr

/-- `EXEC(op, args, phase, staged)` of channel B (R50). `staged` holds the levels sampled so far, oldest first (log 10). -/
structure ExecB where
  op : Word
  args : Quad
  phase : PhaseB
  staged : List Bool
deriving DecidableEq, Repr

/-- The channel-B sequencer (R50). -/
inductive SeqB where
  | idle
  | exec (e : ExecB)
deriving DecidableEq, Repr

/-- The registers both channels have (R30, R34, R43, R44). `BUSY` is not among them: it is the sequencer's state
(R50, log 17). `valid` is `CAL_VALID` on A and `SP_VALID` on B. -/
structure Regs where
  done : Bool
  valid : Bool
  ovr : Bool
  err : ErrCode
  lastop : Byte
  arg : Quad
  res : Quad
deriving DecidableEq, Repr

/-- Channel A. -/
structure ChanA where
  regs : Regs
  devaddr : BitVec 7
  cal : Cal
  seq : SeqA
  trace : List EventA
deriving DecidableEq, Repr

/-- Channel B. `time` is the line time its timebase has counted, in `TICK`s of 1 µs (R58, log 14). -/
structure ChanB where
  regs : Regs
  sp : Scratchpad
  drive : LineDrive
  time : Nat
  seq : SeqB
  trace : List EventB
deriving DecidableEq, Repr

/-- The HOST agent (R5): the statements it has still to perform, and the reads it has made, oldest first, each with
its offset and the value (R175). The model's own field (log 5). -/
structure HostAgent where
  program : List HostStmt
  observed : List (Nat × Word)
deriving DecidableEq, Repr

/-- Who takes a turn (R5, R612): an agent that steps, or the platform asserting block reset (R700). -/
inductive Agent where
  | host
  | cha
  | chb
  | reset
deriving DecidableEq, Repr

/-- The state: the two channels, and the model's own fields for the environment: the host, the answers the I2CDEV
oracle will give, the levels the OWLINE oracle will show, and the turns to come (logs 2, 3, 5). -/
structure State where
  a : ChanA
  b : ChanB
  host : HostAgent
  i2c : List I2cAnswer
  owline : List Bool
  schedule : List Agent
deriving DecidableEq, Repr

/-- Why a step stops. No instruction raises a fault: both come from the HOST agent. -/
inductive Fault where
  /-- Raised by a host access at an offset that the register window does not have (R100; log 7). Safe: the model stops
  where the access is not SRAC's. -/
  | outsideWindow (offset : Nat)
  /-- Raised by a host `expect` whose assertion does not hold (R175; log 5). Safe: the assertion is the program's. -/
  | expectFailed (offset : Nat)
deriving DecidableEq, Repr

/-- Why a step is refused. -/
inductive Refusal where
  /-- Raised by an arm of `exec` whose instruction has no meaning yet; no arm is one. Safe. -/
  | notModelled (mnemonic : String)
  /-- Raised by a host access that is not 32 bits wide (R31, I1). Safe: the spec refuses it. -/
  | accessWidth (width : Nat)
  /-- Raised by a host access whose offset is no multiple of 4 (R31, I1). Safe: the spec refuses it. -/
  | accessAlignment (offset : Nat)
deriving DecidableEq, Repr

/-- Four registers at 0 (R60). -/
def Quad.zero : Quad := ⟨0, 0, 0, 0⟩

/-- The calibration bank at 0 (R60). -/
def Cal.zero : Cal := ⟨0, 0, 0, 0, 0, 0, 0, 0, 0, 0, 0, 0, 0, 0, 0, 0, 0, 0⟩

/-- The registers both channels have, at reset (R60). -/
def Regs.reset : Regs :=
  { done := false, valid := false, ovr := false, err := .ok, lastop := 0, arg := .zero, res := .zero }

/-- Channel A at reset (R60). -/
def ChanA.reset : ChanA :=
  { regs := .reset, devaddr := Config.devAddrReset, cal := .zero, seq := .idle, trace := [] }

/-- Channel B at reset (R60); `time` is log 14's. -/
def ChanB.reset : ChanB :=
  { regs := .reset, sp := ⟨0, 0, 0⟩, drive := .released, time := 0, seq := .idle, trace := [] }

/-- The machine after block reset (R60, R700), in an environment with nothing placed in it (log 24). -/
def State.reset : State :=
  { a := .reset, b := .reset, host := ⟨[], []⟩, i2c := [], owline := [], schedule := [] }

end Sys2Proof.Machine
end

