-- ==== Sys2Proof/Machine/Flags.lean ====
section
/-! DEFINITION. The status word of a channel (10_state.md R34) and the numbering of the completion codes
(60_exceptions.md R600). There are no other flags (R49). -/

namespace Sys2Proof.Machine

/-- The value of a completion code in `ERR` (R600). -/
def ErrCode.toByte : ErrCode → Byte
  | .ok => 0x00
  | .transportError => 0x01
  | .deviceNotFound => 0x02
  | .invalidCalibration => 0x03
  | .crcMismatch => 0x04
  | .conversionTimeout => 0x05
  | .illegalCommand => 0x06
  | .illegalOperand => 0x07
  | .calLocked => 0x08

/-- `BUSY` of channel A: 1 exactly when the sequencer is in `EXEC` (R50). -/
def SeqA.busy : SeqA → Bool
  | .idle => false
  | .exec _ => true

/-- `BUSY` of channel B (R50). -/
def SeqB.busy : SeqB → Bool
  | .idle => false
  | .exec _ => true

/-- `x_STATUS` as a read shows it (R34): reserved bits 31:24 and 7:4 read 0. -/
def statusWord (busy : Bool) (r : Regs) : Word :=
  (0 : BitVec 8) ++ (r.lastop ++ (r.err.toByte ++
    ((0 : BitVec 4) ++ (BitVec.ofBool r.ovr ++ (BitVec.ofBool r.valid ++ (BitVec.ofBool r.done ++ BitVec.ofBool busy))))))

/-- `A_STATUS`. -/
def ChanA.status (c : ChanA) : Word := statusWord c.seq.busy c.regs

/-- `B_STATUS`. -/
def ChanB.status (c : ChanB) : Word := statusWord c.seq.busy c.regs

/-- A host write to `x_STATUS`: bit 3 set clears `OVR`, every other bit is ignored (R34, R39). -/
def Regs.writeStatus (v : Word) (r : Regs) : Regs :=
  if v.getLsbD 3 then { r with ovr := false } else r

end Sys2Proof.Machine
end

