-- ==== Sys2Proof/Machine/Operands.lean ====
section
/-! DEFINITION. The operands a command reads from its latched arguments (30_encoding.md R160 to R164) and the
widenings of 00_scope.md R8. Every other argument bit is ignored (R43). -/

namespace Sys2Proof.Machine

/-- `zext_32` of a narrower value (R8). -/
def zext32 {n : Nat} (v : BitVec n) : Word := v.setWidth 32

/-- `sext_32` of a narrower value (R8). -/
def sext32 {n : Nat} (v : BitVec n) : Word := v.signExtend 32

/-- Byte `k` of a word: bits `8k+7` to `8k` (R7, R113). -/
def wordByte (w : Word) (k : Nat) : Byte := w.extractLsb' (8 * k) 8

/-- The word of four bytes, byte `k` in bits `8k+7` to `8k` (R47, R113). -/
def wordOfBytes (b0 b1 b2 b3 : Byte) : Word := b3 ++ (b2 ++ (b1 ++ b0))

/-- Register `i` of four. -/
def Quad.get (q : Quad) (i : Fin 4) : Word :=
  match i with
  | 0 => q.r0
  | 1 => q.r1
  | 2 => q.r2
  | 3 => q.r3

/-- The four registers with register `i` written. -/
def Quad.set (q : Quad) (i : Fin 4) (v : Word) : Quad :=
  match i with
  | 0 => { q with r0 := v }
  | 1 => { q with r1 := v }
  | 2 => { q with r2 := v }
  | 3 => { q with r3 := v }

/-- `adc_T` or `adc_P`: `ARG[0][19:0]`, zero-extended (R160). -/
def adc20 (args : Quad) : Word := zext32 (args.r0.extractLsb' 0 20)

/-- `adc_H`: `ARG[0][15:0]`, zero-extended (R160). -/
def adc16 (args : Quad) : Word := zext32 (args.r0.extractLsb' 0 16)

/-- `t_fine`: the whole of `ARG[1]` (R160). -/
def tFineArg (args : Quad) : Word := args.r1

/-- The bit `b` of `OWWBIT`: `ARG[0][0]` (R160). -/
def bitArg (args : Quad) : Bool := args.r0.getLsbD 0

/-- Byte `k` of the sixteen bytes of `ARG[0..3]` (R113, R160). -/
def argByte (args : Quad) (k : Nat) : Byte :=
  if k < 4 then wordByte args.r0 k
  else if k < 8 then wordByte args.r1 (k - 4)
  else if k < 12 then wordByte args.r2 (k - 8)
  else wordByte args.r3 (k - 12)

/-- The input of `CRC8`: bytes 0 to `len - 1` (R160, R163). -/
def crcInput (args : Quad) (len : Nat) : List Byte := (List.range len).map (argByte args)

/-- A SensorConfig in the sensor's field codes (R161, 20_memory.md R107). -/
structure SensorConfig where
  osrsT : BitVec 3
  osrsP : BitVec 3
  osrsH : BitVec 3
  filter : BitVec 3
  tSb : BitVec 3
  mode : BitVec 2
deriving DecidableEq, Repr

/-- Unpacking `ARG[0][16:0]` (R161); bits 31:17 are ignored. -/
def unpackConfig (w : Word) : SensorConfig :=
  { osrsT := w.extractLsb' 0 3
    osrsP := w.extractLsb' 3 3
    osrsH := w.extractLsb' 6 3
    filter := w.extractLsb' 9 3
    tSb := w.extractLsb' 12 3
    mode := w.extractLsb' 15 2 }

/-- The SensorConfig operand of `CFG` and `EST` (R160). -/
def configArg (args : Quad) : SensorConfig := unpackConfig args.r0

/-- SensorConfig validity (R162). -/
def SensorConfig.valid (c : SensorConfig) : Bool :=
  decide (c.osrsT ≤ 5) && decide (c.osrsP ≤ 5) && decide (c.osrsH ≤ 5) && decide (c.filter ≤ 4) && c.mode != 2

end Sys2Proof.Machine
end

