-- ==== Sys2Proof/Machine/Ops.lean ====
section
/-! DEFINITION. The named operations over registers: the register window (10_state.md R30 to R47), acceptance (R52,
R53, R55), completion with its commit (R56, 60_exceptions.md R606) and with a code (R608), the bus primitives
(00_scope.md R11, R12) and block reset (R700). -/

namespace Sys2Proof.Machine

/-- The calibration coefficients by name (R45). -/
inductive Coef where
  | t1 | t2 | t3
  | p1 | p2 | p3 | p4 | p5 | p6 | p7 | p8 | p9
  | h1 | h2 | h3 | h4 | h5 | h6
deriving DecidableEq, Repr

/-- The registers of the window (R30). -/
inductive Reg where
  | cmd (ch : Channel)
  | status (ch : Channel)
  | ctrl
  | arg (ch : Channel) (i : Fin 4)
  | res (ch : Channel) (i : Fin 4)
  | coef (c : Coef)
  | sp (i : Fin 3)
  | reserved
deriving DecidableEq, Repr

/-- The layout of the window (R30, R45, R47): the offset of every register it names. -/
def windowMap : List (Nat × Reg) :=
  [(0x000, .cmd .a), (0x004, .status .a), (0x008, .ctrl),
   (0x010, .arg .a 0), (0x014, .arg .a 1), (0x018, .arg .a 2), (0x01C, .arg .a 3),
   (0x020, .res .a 0), (0x024, .res .a 1), (0x028, .res .a 2), (0x02C, .res .a 3),
   (0x040, .coef .t1), (0x044, .coef .t2), (0x048, .coef .t3),
   (0x04C, .coef .p1), (0x050, .coef .p2), (0x054, .coef .p3), (0x058, .coef .p4), (0x05C, .coef .p5),
   (0x060, .coef .p6), (0x064, .coef .p7), (0x068, .coef .p8), (0x06C, .coef .p9),
   (0x070, .coef .h1), (0x074, .coef .h2), (0x078, .coef .h3), (0x07C, .coef .h4), (0x080, .coef .h5),
   (0x084, .coef .h6),
   (0x100, .cmd .b), (0x104, .status .b),
   (0x110, .arg .b 0), (0x114, .arg .b 1), (0x118, .arg .b 2), (0x11C, .arg .b 3),
   (0x120, .res .b 0), (0x124, .res .b 1), (0x128, .res .b 2), (0x12C, .res .b 3),
   (0x130, .sp 0), (0x134, .sp 1), (0x138, .sp 2)]

/-- The register at an offset; every other offset is reserved (R30). -/
def regAt (offset : Nat) : Reg := (windowMap.lookup offset).getD .reserved

/-- A coefficient as its register shows it (R45): unsigned ones zero-extended, signed ones sign-extended. The
compensation commands take the same widened values (41_compensation.md R301, R311, R331). -/
def Cal.coef (c : Cal) : Coef → Word
  | .t1 => zext32 c.t1
  | .t2 => sext32 c.t2
  | .t3 => sext32 c.t3
  | .p1 => zext32 c.p1
  | .p2 => sext32 c.p2
  | .p3 => sext32 c.p3
  | .p4 => sext32 c.p4
  | .p5 => sext32 c.p5
  | .p6 => sext32 c.p6
  | .p7 => sext32 c.p7
  | .p8 => sext32 c.p8
  | .p9 => sext32 c.p9
  | .h1 => zext32 c.h1
  | .h2 => sext32 c.h2
  | .h3 => zext32 c.h3
  | .h4 => sext32 c.h4
  | .h5 => sext32 c.h5
  | .h6 => sext32 c.h6

/-- The registers both channels have, of one channel. -/
def State.regs (s : State) : Channel → Regs
  | .a => s.a.regs
  | .b => s.b.regs

/-- `x_STATUS` of a channel (R34). -/
def State.status (s : State) : Channel → Word
  | .a => s.a.status
  | .b => s.b.status

/-- A host read of a register: no side effect (R32, R34, R42 to R47, R117). -/
def readReg (r : Reg) (s : State) : Word :=
  match r with
  | .cmd _ => 0
  | .status ch => s.status ch
  | .ctrl => zext32 s.a.devaddr
  | .arg ch i => (s.regs ch).arg.get i
  | .res ch i => (s.regs ch).res.get i
  | .coef c => s.a.cal.coef c
  | .sp i =>
    match i with
    | 0 => s.b.sp.sp0
    | 1 => s.b.sp.sp1
    | 2 => zext32 s.b.sp.sp2
  | .reserved => 0

/-- A host read at an offset of the window. -/
def readWindow (offset : Nat) (s : State) : Word := readReg (regAt offset) s

/-- Acceptance on channel A (R52, R55): the sequencer enters `EXEC` with the word and the latched copies of the
arguments and of `DEVADDR`, `DONE` is cleared, `LASTOP` takes the opcode field. No check is made. -/
def acceptA (w : Word) (s : State) : State :=
  { s with a := { s.a with
      regs := { s.a.regs with done := false, lastop := w.extractLsb' 0 8 }
      seq := .exec { op := w, args := s.a.regs.arg, dev := s.a.devaddr, phase := .prim 0, staged := [] } } }

/-- Acceptance on channel B (R52, R55). -/
def acceptB (w : Word) (s : State) : State :=
  { s with b := { s.b with
      regs := { s.b.regs with done := false, lastop := w.extractLsb' 0 8 }
      seq := .exec { op := w, args := s.b.regs.arg, phase := ⟨0, 0⟩, staged := [] } } }

/-- A host write to `A_CMD`: accepted while `IDLE` (R52), dropped with `OVR` while `BUSY` (R53). -/
def writeCmdA (w : Word) (s : State) : State :=
  match s.a.seq with
  | .idle => acceptA w s
  | .exec _ => { s with a := { s.a with regs := { s.a.regs with ovr := true } } }

/-- A host write to `B_CMD` (R52, R53). -/
def writeCmdB (w : Word) (s : State) : State :=
  match s.b.seq with
  | .idle => acceptB w s
  | .exec _ => { s with b := { s.b with regs := { s.b.regs with ovr := true } } }

/-- The state with the common registers of one channel updated. -/
def State.mapRegs (f : Regs → Regs) (ch : Channel) (s : State) : State :=
  match ch with
  | .a => { s with a := { s.a with regs := f s.a.regs } }
  | .b => { s with b := { s.b with regs := f s.b.regs } }

/-- A host write to a register (R32, R34, R42, R43, R52, R53): read-only registers and reserved offsets ignore it. -/
def writeReg (r : Reg) (v : Word) (s : State) : State :=
  match r with
  | .cmd .a => writeCmdA v s
  | .cmd .b => writeCmdB v s
  | .status ch => s.mapRegs (Regs.writeStatus v) ch
  | .ctrl => { s with a := { s.a with devaddr := v.extractLsb' 0 7 } }
  | .arg ch i => s.mapRegs (fun r => { r with arg := r.arg.set i v }) ch
  | .res _ _ => s
  | .coef _ => s
  | .sp _ => s
  | .reserved => s

/-- A host write at an offset of the window. -/
def writeWindow (offset : Nat) (v : Word) (s : State) : State := writeReg (regAt offset) v s

/-- The results a command stages for its commit: `none` where it names no register (R165, R606). -/
structure Results where
  r0 : Option Word := none
  r1 : Option Word := none
  r2 : Option Word := none
  r3 : Option Word := none
deriving DecidableEq, Repr

/-- Committing staged results: a register the command does not name keeps its value (R44, R165). -/
def Quad.commit (q : Quad) (r : Results) : Quad :=
  { r0 := r.r0.getD q.r0, r1 := r.r1.getD q.r1, r2 := r.r2.getD q.r2, r3 := r.r3.getD q.r3 }

/-- What a channel-A command commits: results, and for `LDCAL` the bank, for `LDCAL` and `SRST` the `CAL_VALID` bit (R606). -/
structure CommitA where
  res : Results := {}
  cal : Option Cal := none
  valid : Option Bool := none
deriving DecidableEq, Repr

/-- What a channel-B command commits: results, and for `OWRSP` the scratchpad bank with `SP_VALID` (R606). -/
structure CommitB where
  res : Results := {}
  sp : Option Scratchpad := none
deriving DecidableEq, Repr

/-- Completion of a channel-A command with `OK`: every staged result is committed, `ERR`, `BUSY` and `DONE` are
written, all in one step (R56, R606). -/
def completeA (c : CommitA) (s : State) : State :=
  { s with a := { s.a with
      regs := { s.a.regs with
        done := true, err := .ok, res := s.a.regs.res.commit c.res, valid := c.valid.getD s.a.regs.valid }
      cal := c.cal.getD s.a.cal
      seq := .idle } }

/-- Completion of a channel-B command with `OK` (R56, R606). -/
def completeB (c : CommitB) (s : State) : State :=
  { s with b := { s.b with
      regs := { s.b.regs with
        done := true, err := .ok, res := s.b.regs.res.commit c.res
        valid := if c.sp.isSome then true else s.b.regs.valid }
      sp := c.sp.getD s.b.sp
      seq := .idle } }

/-- `raise`: a channel-A command ends with a code other than `OK`; exactly `ERR`, `BUSY` and `DONE` change (R608, R603).
This is the block's whole exception entry: nothing is saved, control does not move, and there is no return (R609). -/
def raiseA (code : ErrCode) (s : State) : State :=
  { s with a := { s.a with regs := { s.a.regs with done := true, err := code }, seq := .idle } }

/-- `raise` on channel B (R608, R603). -/
def raiseB (code : ErrCode) (s : State) : State :=
  { s with b := { s.b with regs := { s.b.regs with done := true, err := code }, seq := .idle } }

/-- An answer as the block takes it: `Ok` with as many bytes as were asked for, or a failure. An `ok` of another size
did not complete as sized, which R11 calls `Fail` (log 4). -/
def I2cAnswer.sized (n : Nat) : I2cAnswer → I2cAnswer
  | .ok bytes => if bytes.length = n then .ok bytes else .fail
  | .addrNack => .addrNack
  | .fail => .fail

/-- Where a channel-A command stands after its primitive `k` was answered: past it, with the bytes of a read staged, or
at the raise of the code the answer stands for (R11). -/
def ExecA.answered (e : ExecA) (k : Nat) (staged : List (List Byte)) : I2cAnswer → ExecA
  | .ok _ => { e with phase := .prim (k + 1), staged := staged }
  | .addrNack => { e with phase := .raised .deviceNotFound }
  | .fail => { e with phase := .raised .transportError }

/-- The bytes a read stages. -/
def I2cAnswer.bytes : I2cAnswer → List Byte
  | .ok bytes => bytes
  | .addrNack => []
  | .fail => []

/-- `MemRead(addr, n)` as primitive `k` of the running command (R11): one transaction, answered by the I2CDEV oracle.
While no answer has come the channel waits, `BUSY` (R620, I4; log 3). -/
def memRead (e : ExecA) (k : Nat) (addr : Byte) (n : Nat) (s : State) : State :=
  match s.i2c with
  | [] => s
  | answer :: rest =>
    { s with
      i2c := rest
      a := { s.a with
        trace := s.a.trace ++ [.memRead e.dev addr n (answer.sized n)]
        seq := .exec (e.answered k (e.staged ++ [(answer.sized n).bytes]) (answer.sized n)) } }

/-- `MemWrite(addr, n, v)` as primitive `k` of the running command (R11). -/
def memWrite (e : ExecA) (k : Nat) (addr : Byte) (bytes : List Byte) (s : State) : State :=
  match s.i2c with
  | [] => s
  | answer :: rest =>
    { s with
      i2c := rest
      a := { s.a with
        trace := s.a.trace ++ [.memWrite e.dev addr bytes (answer.sized 0)]
        seq := .exec (e.answered k e.staged (answer.sized 0)) } }

/-- The four primitives of channel B (00_scope.md R12); times in µs. -/
inductive PrimB where
  | driveLow (t : Nat)
  | release (t : Nat)
  | wait (t : Nat)
  | sample
deriving DecidableEq, Repr

/-- One primitive of channel B (R12, R57, R58, R59), after which the running command stands at `phase`. A sample takes
no time; while the OWLINE oracle has not answered it the channel waits (R620; log 3). -/
def primB (p : PrimB) (e : ExecB) (phase : PhaseB) (s : State) : State :=
  match p with
  | .driveLow t =>
    { s with b := { s.b with
        drive := .low, time := s.b.time + t, trace := s.b.trace ++ [.driveLow t], seq := .exec { e with phase := phase } } }
  | .release t =>
    { s with b := { s.b with
        drive := .released, time := s.b.time + t, trace := s.b.trace ++ [.release t], seq := .exec { e with phase := phase } } }
  | .wait t =>
    { s with b := { s.b with
        time := s.b.time + t, trace := s.b.trace ++ [.wait t], seq := .exec { e with phase := phase } } }
  | .sample =>
    match s.owline with
    | [] => s
    | level :: rest =>
      { s with
        owline := rest
        b := { s.b with
          trace := s.b.trace ++ [.sample level]
          seq := .exec { e with phase := phase, staged := e.staged ++ [level] } } }

/-- Block reset (R700, R60): every piece of block state takes its reset value and no bus primitive is made. The host,
the devices' answers and the schedule are no state of the block (R702; log 8). -/
def blockReset (s : State) : State := { s with a := .reset, b := .reset }

end Sys2Proof.Machine
end

