-- ==== Sys2Proof/Machine/Sequencer.lean ====
section
/-! DEFINITION. The two sequencers (10_state.md R50, R51): what a command does next, as a function of where it stands,
and one channel step that does it. -/

namespace Sys2Proof.Machine

/-- What a channel-A command does next: a bus primitive, its successful completion, or the raise of a code. -/
inductive ActA where
  | read (addr : Byte) (n : Nat)
  | write (addr : Byte) (bytes : List Byte)
  | done (c : CommitA)
  | raise (code : ErrCode)
deriving DecidableEq, Repr

/-- One step of channel A (R51) running a command: `next e k` is what the command does after `k` primitives. A code
that a bus answer raised ends the command in the step after that primitive (R13, R56, R620). An idle channel waits for
a command word (R617; log 23). -/
def stepA (next : ExecA → Nat → ActA) (s : State) : State :=
  match s.a.seq with
  | .idle => s
  | .exec e =>
    match e.phase with
    | .raised code => raiseA code s
    | .prim k =>
      match next e k with
      | .read addr n => memRead e k addr n s
      | .write addr bytes => memWrite e k addr bytes s
      | .done c => completeA c s
      | .raise code => raiseA code s

/-- What a channel-B command does next: go on with the slot sequence of its line, go on sending a single-wire command
byte (R170), its successful completion, or the raise of a code. -/
inductive ActB where
  | slot (ops : List PrimB)
  | bus (v : Byte)
  | done (c : CommitB)
  | raise (code : ErrCode)
deriving DecidableEq, Repr

/-- The position after primitive `sub` of a sequence of `len`: the next one, or the next line (R400: slots are back to
back). -/
def PhaseB.advance (p : PhaseB) (len : Nat) : PhaseB :=
  if p.sub + 1 < len then { p with sub := p.sub + 1 } else { line := p.line + 1, sub := 0 }

/-- The next primitive of a slot sequence. A position past its end, which no run reaches, counts as its end (log 12). -/
def slotStep (ops : List PrimB) (e : ExecB) (s : State) : State :=
  match ops[e.phase.sub]? with
  | some p => primB p e (e.phase.advance ops.length) s
  | none => { s with b := { s.b with seq := .exec { e with phase := e.phase.advance ops.length } } }

/-- A write slot for one bit (42_single_wire.md R402): 80 µs for either value. -/
def writeBitOps (bit : Bool) : List PrimB :=
  if bit then [.driveLow Config.tW1l, .release Config.tW1r] else [.driveLow Config.tW0l, .release Config.tW0r]

/-- The reset and presence slot (R401), 960 µs. -/
def resetOps : List PrimB :=
  [.driveLow Config.tRstl, .release Config.tPds, .sample, .wait Config.tRstr]

/-- A read slot for one bit (R403), 60 µs. -/
def readBitOps : List PrimB :=
  [.driveLow Config.tRl, .release Config.tRs, .sample, .wait Config.tRr]

/-- Writing a byte (R404): eight write slots, least-significant bit first. -/
def writeByteOps (v : Byte) : List PrimB :=
  writeBitOps (v.getLsbD 0) ++ writeBitOps (v.getLsbD 1) ++ writeBitOps (v.getLsbD 2) ++ writeBitOps (v.getLsbD 3) ++
  writeBitOps (v.getLsbD 4) ++ writeBitOps (v.getLsbD 5) ++ writeBitOps (v.getLsbD 6) ++ writeBitOps (v.getLsbD 7)

/-- Reading a byte (R404): eight read slots. -/
def readByteOps : List PrimB :=
  readBitOps ++ readBitOps ++ readBitOps ++ readBitOps ++ readBitOps ++ readBitOps ++ readBitOps ++ readBitOps

/-- The byte of eight levels in time order, least-significant bit first (R404, R112). -/
def byteOfLevels (b0 b1 b2 b3 b4 b5 b6 b7 : Bool) : Byte :=
  BitVec.ofBool b7 ++ (BitVec.ofBool b6 ++ (BitVec.ofBool b5 ++ (BitVec.ofBool b4 ++
    (BitVec.ofBool b3 ++ (BitVec.ofBool b2 ++ (BitVec.ofBool b1 ++ BitVec.ofBool b0))))))

/-- The bytes that a sequence of sampled levels spells (R404); levels that fill no byte are left out. -/
def bytesOfLevels : List Bool → List Byte
  | b0 :: b1 :: b2 :: b3 :: b4 :: b5 :: b6 :: b7 :: rest => byteOfLevels b0 b1 b2 b3 b4 b5 b6 b7 :: bytesOfLevels rest
  | _ => []

/-- The presence answer of the reset slot a command begins with (R401): a low line is a presence pulse. -/
def presence (staged : List Bool) : Bool := staged.head? == some false

/-- The level sampled last. -/
def lastLevel (staged : List Bool) : Bool := staged.getLast? == some true

/-- One primitive of sending a single-wire command byte (R170, R404). -/
def sendBusByte (v : Byte) (e : ExecB) (s : State) : State := slotStep (writeByteOps v) e s

/-- One step of channel B (R51) running a command: `next e` is what the command does where it stands. An idle channel
waits for a command word (R617; log 23). -/
def stepB (next : ExecB → ActB) (s : State) : State :=
  match s.b.seq with
  | .idle => s
  | .exec e =>
    match next e with
    | .slot ops => slotStep ops e s
    | .bus v => sendBusByte v e s
    | .done c => completeB c s
    | .raise code => raiseB code s

end Sys2Proof.Machine
end

