-- ==== Sys2Proof/Machine/BusCommand.lean ====
section
/-! DEFINITION. The single-wire command bytes (30_encoding.md R170): what the block does with each is to send it, by the
byte write of 42_single_wire.md R404, R440. One step sends the byte's next primitive, from the position of the command
that issued it (log 13). -/

namespace Sys2Proof.Machine

/-- One step of sending a single-wire command byte, where channel B is running a command (R170, R404). -/
def stepBusByte (v : Byte) (s : State) : State :=
  match s.b.seq with
  | .idle => s
  | .exec e => sendBusByte v e s

/-- `OW.SKIP_ROM`: the byte 0xCC. -/
def execOwSkipRom (s : State) : Host.Outcome State Fault Refusal := .next (stepBusByte 0xCC s)

/-- `OW.CONVERT_T`: the byte 0x44. -/
def execOwConvertT (s : State) : Host.Outcome State Fault Refusal := .next (stepBusByte 0x44 s)

/-- `OW.READ_SCRATCHPAD`: the byte 0xBE. -/
def execOwReadScratchpad (s : State) : Host.Outcome State Fault Refusal := .next (stepBusByte 0xBE s)

/-- `OW.WRITE_SCRATCHPAD`: the byte 0x4E. -/
def execOwWriteScratchpad (s : State) : Host.Outcome State Fault Refusal := .next (stepBusByte 0x4E s)

end Sys2Proof.Machine
end

