-- ==== Sys2Proof/Machine/CombinedSensor.lean ====
section
/-! DEFINITION. The channel-A commands that touch the I2C bus (40_combined_sensor.md): `ID`, `SRST`, `LDCAL`, `CFG`,
`STAT`, `RDRAW`. Each is what it does after `k` primitives; its meaning is one channel step of that (R51; log 1). -/

namespace Sys2Proof.Machine

/-- Byte `j` of the `i`-th completed read. A position that no read has filled reads 0; no run asks for one (log 12). -/
def stagedByte (staged : List (List Byte)) (i j : Nat) : Byte := (staged.getD i []).getD j 0

/-- Chip-id classification (R201): 0 Recognized, 1 WrongSensorDetected, 2 Corrupt. -/
def idClass (b : Byte) : Word :=
  if b = Config.chipIdOk then 0 else if b ∈ Config.chipIdWrong then 1 else 2

/-- `ID` (R200). -/
def idNext (e : ExecA) : Nat → ActA
  | 0 => .read 0xD0 1
  | _ + 1 =>
    .done { res := { r0 := some (idClass (stagedByte e.staged 0 0)), r1 := some (zext32 (stagedByte e.staged 0 0)) } }

/-- `A.ID`: one step (R200). -/
def execAId (s : State) : Host.Outcome State Fault Refusal := .next (stepA idNext s)

/-- `SRST` (R210): the write of 0xB6 to 0xE0; on `OK` the commit clears `CAL_VALID`. -/
def srstNext (_ : ExecA) : Nat → ActA
  | 0 => .write 0xE0 [0xB6]
  | _ + 1 => .done { valid := some false }

/-- `A.SRST`: one step (R210). -/
def execASrst (s : State) : Host.Outcome State Fault Refusal := .next (stepA srstNext s)

/-- The 16-bit value of two bytes, low byte first (20_memory.md R109). -/
def pair16 (lo hi : Byte) : BitVec 16 := hi ++ lo

/-- The 12-bit humidity coefficients, sign-extended from bit 11 (R110): the high byte and one nibble. -/
def sext12 (hi : Byte) (nibble : BitVec 4) : BitVec 16 := (hi ++ nibble : BitVec 12).signExtend 16

/-- Calibration decoding (R221, R109, R110) from the three reads: `c` 24 bytes, `a` 1 byte, `h` 7 bytes. -/
def calDecode (c a h : List Byte) : Cal :=
  let pair (k : Nat) : BitVec 16 := pair16 (c.getD (2 * k) 0) (c.getD (2 * k + 1) 0)
  { t1 := pair 0, t2 := pair 1, t3 := pair 2
    p1 := pair 3, p2 := pair 4, p3 := pair 5, p4 := pair 6, p5 := pair 7, p6 := pair 8, p7 := pair 9
    p8 := pair 10, p9 := pair 11
    h1 := a.getD 0 0
    h2 := pair16 (h.getD 0 0) (h.getD 1 0)
    h3 := h.getD 2 0
    h4 := sext12 (h.getD 3 0) ((h.getD 4 0).extractLsb' 0 4)
    h5 := sext12 (h.getD 5 0) ((h.getD 4 0).extractLsb' 4 4)
    h6 := h.getD 6 0 }

/-- `LDCAL` (R220): refused with `CAL_LOCKED` before any primitive when a table is loaded. -/
def ldcalNext (calValid : Bool) (e : ExecA) : Nat → ActA
  | 0 => if calValid then .raise .calLocked else .read 0x88 24
  | 1 => .read 0xA1 1
  | 2 => .read 0xE1 7
  | _ + 3 =>
    .done { cal := some (calDecode (e.staged.getD 0 []) (e.staged.getD 1 []) (e.staged.getD 2 [])), valid := some true }

/-- `A.LDCAL`: one step (R220). -/
def execALdcal (s : State) : Host.Outcome State Fault Refusal := .next (stepA (ldcalNext s.a.regs.valid) s)

/-- The byte `CFG` writes to ctrl_hum (0xF2): `osrs_h` in bits 2:0, bits 7:3 as read (R230, R103). -/
def ctrlHum (old : Byte) (c : SensorConfig) : Byte := (old &&& 0xF8) ||| c.osrsH.setWidth 8

/-- The byte `CFG` writes to ctrl_meas (0xF4): the three fields fill it (R230, R105). -/
def ctrlMeas (old : Byte) (c : SensorConfig) : Byte :=
  (old &&& 0x00) ||| (c.osrsT.setWidth 8 <<< 5) ||| (c.osrsP.setWidth 8 <<< 2) ||| c.mode.setWidth 8

/-- The byte `CFG` writes to config (0xF5): `t_sb` and `filter`, bits 1:0 as read (R230, R106). -/
def ctrlConfig (old : Byte) (c : SensorConfig) : Byte :=
  (old &&& 0x03) ||| (c.tSb.setWidth 8 <<< 5) ||| (c.filter.setWidth 8 <<< 2)

/-- `CFG` (R230): the operand check, then three read-modify-writes, 0xF2 before 0xF4 before 0xF5 (R232). -/
def cfgNext (e : ExecA) : Nat → ActA
  | 0 => if (configArg e.args).valid then .read 0xF2 1 else .raise .illegalOperand
  | 1 => .write 0xF2 [ctrlHum (stagedByte e.staged 0 0) (configArg e.args)]
  | 2 => .read 0xF4 1
  | 3 => .write 0xF4 [ctrlMeas (stagedByte e.staged 1 0) (configArg e.args)]
  | 4 => .read 0xF5 1
  | 5 => .write 0xF5 [ctrlConfig (stagedByte e.staged 2 0) (configArg e.args)]
  | _ + 6 => .done {}

/-- `A.CFG`: one step (R230). -/
def execACfg (s : State) : Host.Outcome State Fault Refusal := .next (stepA cfgNext s)

/-- Status classification of the masked byte (R241): Idle, Measuring, CopyingNvm, MeasuringAndCopying, Corrupt. -/
def statClass (m : Byte) : Word :=
  if m = 0x00 then 0 else if m = 0x08 then 1 else if m = 0x01 then 2 else if m = 0x09 then 3 else 4

/-- `STAT` (R240): the status byte masked with 0x09 and classified. -/
def statNext (e : ExecA) : Nat → ActA
  | 0 => .read 0xF3 1
  | _ + 1 =>
    .done { res := { r0 := some (statClass (stagedByte e.staged 0 0 &&& 0x09)), r1 := some (zext32 (stagedByte e.staged 0 0)) } }

/-- `A.STAT`: one step (R240). -/
def execAStat (s : State) : Host.Outcome State Fault Refusal := .next (stepA statNext s)

/-- A 20-bit raw code: two bytes and the top nibble of a third, most significant first (R108). -/
def raw20 (b0 b1 b2 : Byte) : BitVec 20 := b0 ++ (b1 ++ (b2.extractLsb' 4 4 : BitVec 4) : BitVec 12)

/-- A 16-bit raw code, most significant byte first (R108). -/
def raw16 (b0 b1 : Byte) : BitVec 16 := b0 ++ b1

/-- `RDRAW` (R250): one burst of 8 bytes, unpacked as R108 lays it out. -/
def rdrawNext (e : ExecA) : Nat → ActA
  | 0 => .read 0xF7 8
  | _ + 1 =>
    let d := stagedByte e.staged 0
    .done { res := {
      r0 := some (zext32 (raw20 (d 0) (d 1) (d 2)))
      r1 := some (zext32 (raw20 (d 3) (d 4) (d 5)))
      r2 := some (zext32 (raw16 (d 6) (d 7))) } }

/-- `A.RDRAW`: one step (R250). -/
def execARdraw (s : State) : Host.Outcome State Fault Refusal := .next (stepA rdrawNext s)

end Sys2Proof.Machine
end

