-- ==== Sys2Proof/Machine/Float64.lean ====
section
/-! DEFINITION. Binary64 arithmetic (41_compensation.md R340): each operation is computed exactly on dyadic numbers and
then rounded once, to nearest with ties to even. R340 says that no operation of SRAC gives a NaN or an infinity, so a
value here is a finite one (log 19). -/

namespace Sys2Proof.Machine

/-- A finite binary64 value: `(-1)^neg * mant * 2^exp`; a zero keeps its sign. -/
structure F64 where
  neg : Bool
  mant : Nat
  exp : Int
deriving DecidableEq, Repr

/-- How many bits a natural number has. -/
def bitLength (m : Nat) : Nat := if m = 0 then 0 else m.log2 + 1

/-- `m / 2^sh` rounded to nearest, ties to even. -/
def roundShift (m sh : Nat) : Nat :=
  let q := m >>> sh
  let r := m % 2 ^ sh
  if 2 * r > 2 ^ sh || (2 * r == 2 ^ sh && q % 2 == 1) then q + 1 else q

/-- The exponent of the last place that binary64 keeps of `m * 2^exp`: 53 significant bits, none below 2^-1074. -/
def lastPlace (m : Nat) (exp : Int) : Int := max (exp + bitLength m - 53) (-1074)

/-- An exact dyadic number correctly rounded to binary64 (R340). -/
def F64.round (neg : Bool) (m : Nat) (exp : Int) : F64 :=
  let e := lastPlace m exp
  if e ≤ exp then ⟨neg, m, exp⟩ else ⟨neg, roundShift m (e - exp).toNat, e⟩

/-- `f64(i)`: an integer of magnitude below 2^53, exactly (R340). -/
def F64.ofInt (i : Int) : F64 := ⟨decide (i < 0), i.natAbs, 0⟩

/-- The significand with its sign, scaled to the exponent `e` (at most the value's own). -/
def F64.scaled (x : F64) (e : Int) : Int :=
  let m : Int := ((x.mant <<< (x.exp - e).toNat : Nat) : Int)
  if x.neg then -m else m

/-- Addition (R340). An exact zero sum is +0 unless both terms are negative. -/
def F64.add (x y : F64) : F64 :=
  let e := min x.exp y.exp
  let s := x.scaled e + y.scaled e
  if s = 0 then ⟨x.neg && y.neg, 0, e⟩ else F64.round (decide (s < 0)) s.natAbs e

/-- Negation: the sign bit. -/
def F64.negate (x : F64) : F64 := { x with neg := !x.neg }

/-- Subtraction (R340). -/
def F64.sub (x y : F64) : F64 := x.add y.negate

/-- Multiplication (R340). -/
def F64.mul (x y : F64) : F64 := F64.round (x.neg ^^ y.neg) (x.mant * y.mant) (x.exp + y.exp)

/-- Division (R340), for the nonzero divisors R340 speaks of: the quotient to at least two bits more than binary64
keeps, with a sticky bit for the rest, rounded once. -/
def F64.div (x y : F64) : F64 :=
  let k := 64 + bitLength y.mant
  let q := (x.mant <<< k) / y.mant
  let sticky := if (x.mant <<< k) % y.mant = 0 then 0 else 1
  F64.round (x.neg ^^ y.neg) (2 * q + sticky) (x.exp - y.exp - k - 1)

/-- `x < y` as numbers: the two zeros are equal. -/
def F64.lt (x y : F64) : Bool :=
  let e := min x.exp y.exp
  decide (x.scaled e < y.scaled e)

/-- The 64 bits of a binary64 value (`bits(f)`): sign, biased exponent, fraction; a subnormal has exponent field 0. A
magnitude past the format's range, which R340 excludes, would show as an infinity. -/
def F64.bits (x : F64) : Dword :=
  let sign : Nat := if x.neg then 2 ^ 63 else 0
  let lead : Int := x.exp + bitLength x.mant - 1
  if x.mant = 0 then BitVec.ofNat 64 sign
  else if lead < -1022 then BitVec.ofNat 64 (sign + x.mant <<< (x.exp + 1074).toNat)
  else if lead > 1023 then BitVec.ofNat 64 (sign + 2047 * 2 ^ 52)
  else
    let frac := ((x.mant <<< 53) >>> bitLength x.mant) - 2 ^ 52
    BitVec.ofNat 64 (sign + (lead + 1023).toNat * 2 ^ 52 + frac)

/-- Bits 31:0 of a binary64 value (R165: the low word of the pair). -/
def F64.lowWord (x : F64) : Word := x.bits.extractLsb' 0 32

/-- Bits 63:32 of a binary64 value. -/
def F64.highWord (x : F64) : Word := x.bits.extractLsb' 32 32

end Sys2Proof.Machine
end

