-- ==== Sys2Proof/Machine/Compensation.lean ====
section
/-! DEFINITION. The channel-A commands that compute without the bus (41_compensation.md): `COMPT`, `COMPP`, `COMPP64`,
`COMPH`, `COMPHF`, `EST`. Each takes one step, its completion (R51). Every line is at the width its rule states and
wraps; `>>` is arithmetic on signed values (00_scope.md R8, R9). -/

namespace Sys2Proof.Machine

/-- `max(lo, min(hi, v))` on signed values (R9). -/
def clampSigned (lo hi v : Word) : Word :=
  if v.slt lo then lo else if hi.slt v then hi else v

/-- The temperature function (R301): the temperature in 0.01 °C and `t_fine`. -/
def compT (adcT : Word) (cal : Cal) : Word × Word :=
  let t1 := cal.coef .t1
  let t2 := cal.coef .t2
  let t3 := cal.coef .t3
  let a1 := adcT.sshiftRight 3 - (t1 <<< 1)
  let a2 := a1 * t2
  let var1 := a2.sshiftRight 11
  let b1 := adcT.sshiftRight 4 - t1
  let b2 := b1 * b1
  let b3 := b2.sshiftRight 12
  let b4 := b3 * t3
  let var2 := b4.sshiftRight 14
  let tFine := var1 + var2
  let c1 := tFine * 5 + 128
  let tRaw := c1.sshiftRight 8
  (clampSigned (-4000) 8500 tRaw, tFine)

/-- `COMPT` (R300). -/
def comptNext (c : ChanA) (e : ExecA) (_ : Nat) : ActA :=
  if c.regs.valid then
    let r := compT (adc20 e.args) c.cal
    .done { res := { r0 := some r.1, r1 := some r.2 } }
  else .raise .invalidCalibration

/-- `A.COMPT`: one step (R300). -/
def execACompt (s : State) : Host.Outcome State Fault Refusal := .next (stepA (comptNext s.a) s)

/-- The scaled denominator of the 32-bit pressure function: the second assignment of `v1` (R311, R312). -/
def compP32Denominator (tFine : Word) (cal : Cal) : Word :=
  let v1 := tFine.sshiftRight 1 - 64000
  let q := v1.sshiftRight 2
  let sq := q * q
  let w1 := (cal.coef .p3 * sq.sshiftRight 13).sshiftRight 3
  let w2 := (cal.coef .p2 * v1).sshiftRight 1
  let v1 := (w1 + w2).sshiftRight 18
  ((32768 + v1) * cal.coef .p1).sshiftRight 15

/-- The `v2` term of the 32-bit pressure function (R311). -/
def compP32Offset (tFine : Word) (cal : Cal) : Word :=
  let v1 := tFine.sshiftRight 1 - 64000
  let q := v1.sshiftRight 2
  let sq := q * q
  let v2 := sq.sshiftRight 11 * cal.coef .p6
  let v2 := v2 + ((v1 * cal.coef .p5) <<< 1)
  v2.sshiftRight 2 + (cal.coef .p4 <<< 16)

/-- The division branch (R311, R312): which of the two forms divides depends on `p < 0x80000000`. Unsigned. -/
def compP32Divide (p v1 : Word) : Word :=
  if p.ult 0x80000000 then (p <<< 1) / v1 else (p / v1) * 2

/-- The last four lines of the 32-bit pressure function (R311). -/
def compP32Correct (p : Word) (cal : Cal) : Word :=
  let x1 := (cal.coef .p9 * (((p >>> 3) * (p >>> 3)) >>> 13)).sshiftRight 12
  let x2 := ((p >>> 2) * cal.coef .p8).sshiftRight 13
  p + (x1 + x2 + cal.coef .p7).sshiftRight 4

/-- The 32-bit pressure function, in Pa (R311); 0 when the scaled denominator is 0 (R312). -/
def compP32 (adcP tFine : Word) (cal : Cal) : Word :=
  let v1 := compP32Denominator tFine cal
  let v2 := compP32Offset tFine cal
  if v1 = 0 then 0
  else
    let p := ((1048576 - adcP) - v2.sshiftRight 12) * 3125
    compP32Correct (compP32Divide p v1) cal

/-- `COMPP` (R310). -/
def comppNext (c : ChanA) (e : ExecA) (_ : Nat) : ActA :=
  if c.regs.valid then .done { res := { r0 := some (compP32 (adc20 e.args) (tFineArg e.args) c.cal) } }
  else .raise .invalidCalibration

/-- `A.COMPP`: one step (R310). -/
def execACompp (s : State) : Host.Outcome State Fault Refusal := .next (stepA (comppNext s.a) s)

/-- A coefficient as `s64` (R321): its 32-bit register value is nonnegative for the unsigned ones, so the sign
extension widens both kinds. -/
def Cal.coef64 (cal : Cal) (c : Coef) : Dword := (cal.coef c).signExtend 64

/-- The scaled denominator of the 64-bit pressure function (R321). -/
def compP64Denominator (tFine : Dword) (cal : Cal) : Dword :=
  let v1 := tFine - 128000
  let v1 := (v1 * v1 * cal.coef64 .p3).sshiftRight 8 + ((v1 * cal.coef64 .p2) <<< 12)
  (((1 <<< 47) + v1) * cal.coef64 .p1).sshiftRight 33

/-- The `v2` term of the 64-bit pressure function (R321). -/
def compP64Offset (tFine : Dword) (cal : Cal) : Dword :=
  let v1 := tFine - 128000
  let v2 := v1 * v1 * cal.coef64 .p6
  let v2 := v2 + ((v1 * cal.coef64 .p5) <<< 17)
  v2 + (cal.coef64 .p4 <<< 35)

/-- The 64-bit pressure function, in Pa × 256 (R321): signed division truncates toward zero, and the low 32 bits of the
result are returned. -/
def compP64 (adcP tFine : Dword) (cal : Cal) : Word :=
  let v1 := compP64Denominator tFine cal
  let v2 := compP64Offset tFine cal
  if v1 = 0 then 0
  else
    let p := 1048576 - adcP
    let p := (((p <<< 31) - v2) * 3125).sdiv v1
    let x1 := (cal.coef64 .p9 * p.sshiftRight 13 * p.sshiftRight 13).sshiftRight 25
    let x2 := (cal.coef64 .p8 * p).sshiftRight 19
    let p := (p + x1 + x2).sshiftRight 8 + (cal.coef64 .p7 <<< 4)
    p.setWidth 32

/-- `COMPP64` (R320). -/
def compp64Next (c : ChanA) (e : ExecA) (_ : Nat) : ActA :=
  if c.regs.valid then
    .done { res := { r0 := some (compP64 ((adc20 e.args).setWidth 64) ((tFineArg e.args).signExtend 64) c.cal) } }
  else .raise .invalidCalibration

/-- `A.COMPP64`: one step (R320). -/
def execACompp64 (s : State) : Host.Outcome State Fault Refusal := .next (stepA (compp64Next s.a) s)

/-- The product of the integer humidity function before its clamp (R331). -/
def compH32Product (adcH tFine : Word) (cal : Cal) : Word :=
  let v := tFine - 76800
  let a1 := (adcH <<< 14) - (cal.coef .h4 <<< 20) - (cal.coef .h5 * v)
  let a := (a1 + 16384).sshiftRight 15
  let b1 := (v * cal.coef .h6).sshiftRight 10
  let b2 := (v * cal.coef .h3).sshiftRight 11 + 32768
  let b3 := (b1 * b2).sshiftRight 10 + 2097152
  let b := (b3 * cal.coef .h2 + 8192).sshiftRight 14
  let v := a * b
  let c1 := v.sshiftRight 15 * v.sshiftRight 15
  let c2 := (c1.sshiftRight 7 * cal.coef .h1).sshiftRight 4
  v - c2

/-- The integer humidity function, in %RH × 1024 (R331). -/
def compH32 (adcH tFine : Word) (cal : Cal) : Word :=
  (clampSigned 0 419430400 (compH32Product adcH tFine cal)).sshiftRight 12

/-- `COMPH` (R330). -/
def comphNext (c : ChanA) (e : ExecA) (_ : Nat) : ActA :=
  if c.regs.valid then .done { res := { r0 := some (compH32 (adc16 e.args) (tFineArg e.args) c.cal) } }
  else .raise .invalidCalibration

/-- `A.COMPH`: one step (R330). -/
def execAComph (s : State) : Host.Outcome State Fault Refusal := .next (stepA (comphNext s.a) s)

/-- `f64` of a 32-bit signed value (R340). -/
def f64OfWord (w : Word) : F64 := F64.ofInt w.toInt

/-- The floating humidity function before its clamp (R342): binary64 operations in the order written. -/
def compHfProduct (adcH tFine : Word) (cal : Cal) : F64 :=
  let one := F64.ofInt 1
  let v := (f64OfWord tFine).sub (F64.ofInt 76800)
  let t1 := (f64OfWord (cal.coef .h4)).mul (F64.ofInt 64)
  let t2 := ((f64OfWord (cal.coef .h5)).div (F64.ofInt 16384)).mul v
  let t3 := (f64OfWord adcH).sub (t1.add t2)
  let u1 := ((f64OfWord (cal.coef .h3)).div (F64.ofInt 67108864)).mul v
  let u2 := one.add u1
  let u3 := (((f64OfWord (cal.coef .h6)).div (F64.ofInt 67108864)).mul v).mul u2
  let u4 := one.add u3
  let u5 := ((f64OfWord (cal.coef .h2)).div (F64.ofInt 65536)).mul u4
  let v := t3.mul u5
  let w1 := ((f64OfWord (cal.coef .h1)).mul v).div (F64.ofInt 524288)
  v.mul (one.sub w1)

/-- The clamp to [0.0, 100.0] (R342). A −0.0 is not below 0.0 and stays (R341). -/
def clampPercent (v : F64) : F64 :=
  if (F64.ofInt 100).lt v then F64.ofInt 100 else if v.lt (F64.ofInt 0) then F64.ofInt 0 else v

/-- The floating humidity function, in %RH (R342). -/
def compHf (adcH tFine : Word) (cal : Cal) : F64 := clampPercent (compHfProduct adcH tFine cal)

/-- `COMPHF` (R341). -/
def comphfNext (c : ChanA) (e : ExecA) (_ : Nat) : ActA :=
  if c.regs.valid then
    let h := compHf (adc16 e.args) (tFineArg e.args) c.cal
    .done { res := { r0 := some h.lowWord, r1 := some h.highWord } }
  else .raise .invalidCalibration

/-- `A.COMPHF`: one step (R341). -/
def execAComphf (s : State) : Host.Outcome State Fault Refusal := .next (stepA (comphfNext s.a) s)

/-- The oversampling multiplier of a code (R351; codes 6 and 7 are refused before it, R162). -/
def multiplier (code : BitVec 3) : Nat := [0, 1, 2, 4, 8, 16].getD code.toNat 0

/-- One channel's part of a conversion time (R351): nothing when skipped. -/
def channelTime (code : BitVec 3) (perSample overhead : Nat) : Nat :=
  if code = 0 then 0 else perSample * multiplier code + overhead

/-- The step-count table (R352). -/
def stepCount (filter : BitVec 3) : Nat := [1, 2, 5, 11, 22].getD filter.toNat 0

/-- The standby table in µs (R353). -/
def standbyUs (tSb : BitVec 3) : Nat := [500, 62500, 125000, 250000, 500000, 1000000, 10000, 20000].getD tSb.toNat 0

/-- The typical time in µs (R351). -/
def timingTyp (c : SensorConfig) : Nat :=
  1000 + channelTime c.osrsT 2000 0 + channelTime c.osrsP 2000 500 + channelTime c.osrsH 2000 500

/-- The maximum time in µs (R351). -/
def timingMax (c : SensorConfig) : Nat :=
  1250 + channelTime c.osrsT 2300 0 + channelTime c.osrsP 2300 575 + channelTime c.osrsH 2300 575

/-- The period in µs: with the standby time in Normal mode, single-shot otherwise (R351). -/
def timingPeriod (c : SensorConfig) : Nat := if c.mode = 3 then timingMax c + standbyUs c.tSb else timingMax c

/-- The output data rate in mHz (R351). -/
def timingRate (c : SensorConfig) : Nat := 1000000000 / timingPeriod c

/-- The IIR step-response time in µs (R351). -/
def timingIir (c : SensorConfig) : Nat := stepCount c.filter * timingPeriod c

/-- `EST` (R350). It needs no calibration. -/
def estNext (e : ExecA) (_ : Nat) : ActA :=
  let c := configArg e.args
  if c.valid then
    .done { res := {
      r0 := some (BitVec.ofNat 32 (timingTyp c)), r1 := some (BitVec.ofNat 32 (timingMax c))
      r2 := some (BitVec.ofNat 32 (timingRate c)), r3 := some (BitVec.ofNat 32 (timingIir c)) } }
  else .raise .illegalOperand

/-- `A.EST`: one step (R350). -/
def execAEst (s : State) : Host.Outcome State Fault Refusal := .next (stepA estNext s)

end Sys2Proof.Machine
end

