-- ==== Sys2Proof/Machine/Crc8.lean ====
section
/-! DEFINITION. The CRC8 unit and the `CRC8` command (43_crc8.md). -/

namespace Sys2Proof.Machine

/-- One bit of the CRC8 loop (R500): the register shifted right, and 0x8C mixed in where the low bit of `crc ^^^ v` is
set. The product with that bit stands for R500's test of it (`crcBit_eq` in Laws). -/
def crcBit (crc v : Byte) : Byte := (crc >>> 1) ^^^ (0x8C * ((crc ^^^ v) &&& 1))

/-- `n` bits of the loop, least-significant bit first (R500). -/
def crcBits : Nat → Byte → Byte → Byte
  | 0, crc, _ => crc
  | n + 1, crc, v => crcBits n (crcBit crc v) (v >>> 1)

/-- The register after a byte. -/
def crcByte (crc v : Byte) : Byte := crcBits 8 crc v

/-- The register after a sequence of bytes, from a given value. -/
def crcFrom (crc : Byte) (bytes : List Byte) : Byte := bytes.foldl crcByte crc

/-- The CRC8 of a byte sequence (R500). -/
def crc8 (bytes : List Byte) : Byte := crcFrom Config.crcInit bytes

/-- Scratchpad validation (R501): the CRC8 of bytes 0 to 7 equals byte 8. -/
def validScratchpad (bytes : List Byte) : Bool := crc8 (bytes.take 8) == bytes.getD 8 0

/-- `CRC8` over `len` bytes (R510). -/
def crc8Next (len : Nat) (e : ExecB) : ActB :=
  if len > 16 then .raise .illegalOperand
  else .done { res := { r0 := some (zext32 (crc8 (crcInput e.args len))) } }

/-- `B.CRC8`: one step (R510). -/
def execBCrc8 (len : Nat) (s : State) : Host.Outcome State Fault Refusal := .next (stepB (crc8Next len) s)

end Sys2Proof.Machine
end

