-- ==== Sys2Proof/Machine/SingleWire.lean ====
section
/-! DEFINITION. The channel-B single-wire commands (42_single_wire.md R410 to R481). Each is what it does at a line of
its pseudocode; its meaning is one channel step of that (R51; log 1). -/

namespace Sys2Proof.Machine

/-- `OWRST` (R410). -/
def owrstNext (e : ExecB) : ActB :=
  match e.phase.line with
  | 0 => .slot resetOps
  | _ + 1 => .done { res := { r0 := some (if presence e.staged then 1 else 0) } }

/-- `B.OWRST`: one step (R410). -/
def execBOwrst (s : State) : Host.Outcome State Fault Refusal := .next (stepB owrstNext s)

/-- `OWWBIT` (R420). -/
def owwbitNext (e : ExecB) : ActB :=
  match e.phase.line with
  | 0 => .slot (writeBitOps (bitArg e.args))
  | _ + 1 => .done {}

/-- `B.OWWBIT`: one step (R420). -/
def execBOwwbit (s : State) : Host.Outcome State Fault Refusal := .next (stepB owwbitNext s)

/-- `OWRBIT` (R430). -/
def owrbitNext (e : ExecB) : ActB :=
  match e.phase.line with
  | 0 => .slot readBitOps
  | _ + 1 => .done { res := { r0 := some (if lastLevel e.staged then 1 else 0) } }

/-- `B.OWRBIT`: one step (R430). -/
def execBOwrbit (s : State) : Host.Outcome State Fault Refusal := .next (stepB owrbitNext s)

/-- `OWWBYTE` (R440). -/
def owwbyteNext (e : ExecB) : ActB :=
  match e.phase.line with
  | 0 => .slot (writeByteOps (argByte e.args 0))
  | _ + 1 => .done {}

/-- `B.OWWBYTE`: one step (R440). -/
def execBOwwbyte (s : State) : Host.Outcome State Fault Refusal := .next (stepB owwbyteNext s)

/-- `OWRBYTE` (R445). -/
def owrbyteNext (e : ExecB) : ActB :=
  match e.phase.line with
  | 0 => .slot readByteOps
  | _ + 1 => .done { res := { r0 := some (zext32 ((bytesOfLevels e.staged).getD 0 0)) } }

/-- `B.OWRBYTE`: one step (R445). -/
def execBOwrbyte (s : State) : Host.Outcome State Fault Refusal := .next (stepB owrbyteNext s)

/-- `OWINIT` (R450, R164): reset with presence check, 0xCC, 0x4E, then TH, TL and the configuration byte. -/
def owinitNext (e : ExecB) : ActB :=
  match e.phase.line with
  | 0 => .slot resetOps
  | n + 1 =>
    if presence e.staged then
      match n with
      | 0 => .bus 0xCC
      | 1 => .bus 0x4E
      | 2 => .slot (writeByteOps (argByte e.args 0))
      | 3 => .slot (writeByteOps (argByte e.args 1))
      | 4 => .slot (writeByteOps (argByte e.args 2))
      | _ + 5 => .done {}
    else .raise .deviceNotFound

/-- `B.OWINIT`: one step (R450). -/
def execBOwinit (s : State) : Host.Outcome State Fault Refusal := .next (stepB owinitNext s)

/-- The slot of one conversion poll that reads 0, with its delay (R460). -/
def pollOps : List PrimB := readBitOps ++ [.wait Config.convPollDelay]

/-- `OWCONV` (R460): reset with presence check, 0xCC, 0x44, then at most `CONV_POLL_MAX` polls. Line `3 + i` is poll
`i + 1`; once its read slot is over (4 primitives), a 1 completes the command with the number of polls made, and a 0 is
followed by the delay. -/
def owconvNext (e : ExecB) : ActB :=
  match e.phase.line with
  | 0 => .slot resetOps
  | n + 1 =>
    if presence e.staged then
      match n with
      | 0 => .bus 0xCC
      | 1 => .bus 0x44
      | i + 2 =>
        if i < Config.convPollMax then
          if e.phase.sub = 4 && lastLevel e.staged then
            .done { res := { r0 := some (BitVec.ofNat 32 (i + 1)) } }
          else .slot pollOps
        else .raise .conversionTimeout
    else .raise .deviceNotFound

/-- `B.OWCONV`: one step (R460). -/
def execBOwconv (s : State) : Host.Outcome State Fault Refusal := .next (stepB owconvNext s)

/-- Temperature decoding (R481): the code, byte 0 the low byte, and its value in °C as a binary64. -/
def decodeT (b0 b1 : Byte) : BitVec 16 × F64 :=
  let code : BitVec 16 := b1 ++ b0
  (code, (F64.ofInt code.toInt).div (F64.ofInt 16))

/-- The three result registers of a decoded temperature (R470, R480). -/
def temperatureResults (b0 b1 : Byte) : Results :=
  let t := decodeT b0 b1
  { r0 := some (sext32 t.1), r1 := some t.2.lowWord, r2 := some t.2.highWord }

/-- The scratchpad bank of nine bytes (R47). -/
def scratchpadOf (bytes : List Byte) : Scratchpad :=
  let d (k : Nat) := bytes.getD k 0
  { sp0 := wordOfBytes (d 0) (d 1) (d 2) (d 3), sp1 := wordOfBytes (d 4) (d 5) (d 6) (d 7), sp2 := d 8 }

/-- The nine scratchpad bytes that an `OWRSP` has sampled, after the presence sample (R470). A byte that nothing has
been sampled for reads 0; no run asks for one (log 12). -/
def scratchpadBytes (staged : List Bool) : List Byte :=
  (List.range 9).map fun k => (bytesOfLevels (staged.drop 1)).getD k 0

/-- `OWRSP` (R470): reset with presence check, 0xCC, 0xBE, nine bytes, the CRC check, and the commit. -/
def owrspNext (e : ExecB) : ActB :=
  match e.phase.line with
  | 0 => .slot resetOps
  | n + 1 =>
    if presence e.staged then
      match n with
      | 0 => .bus 0xCC
      | 1 => .bus 0xBE
      | k + 2 =>
        if k < 9 then .slot readByteOps
        else
          let bytes := scratchpadBytes e.staged
          if validScratchpad bytes then
            .done { res := temperatureResults (bytes.getD 0 0) (bytes.getD 1 0), sp := some (scratchpadOf bytes) }
          else .raise .crcMismatch
    else .raise .deviceNotFound

/-- `B.OWRSP`: one step (R470). -/
def execBOwrsp (s : State) : Host.Outcome State Fault Refusal := .next (stepB owrspNext s)

/-- `OWDEC` (R480). -/
def owdecNext (e : ExecB) : ActB := .done { res := temperatureResults (argByte e.args 0) (argByte e.args 1) }

/-- `B.OWDEC`: one step (R480). -/
def execBOwdec (s : State) : Host.Outcome State Fault Refusal := .next (stepB owdecNext s)

end Sys2Proof.Machine
end

