-- ==== Sys2Proof/Machine/Dispatch.lean ====
section
/-! DEFINITION. The dispatch: one arm per instruction, each one call of its meaning. -/

namespace Sys2Proof.Machine

def exec (i : Instr) (s : State) : Host.Outcome State Fault Refusal :=
  match i with
  | .aId => Sys2Proof.Machine.execAId s
  | .aSrst => Sys2Proof.Machine.execASrst s
  | .aLdcal => Sys2Proof.Machine.execALdcal s
  | .aCfg => Sys2Proof.Machine.execACfg s
  | .aStat => Sys2Proof.Machine.execAStat s
  | .aRdraw => Sys2Proof.Machine.execARdraw s
  | .aCompt => Sys2Proof.Machine.execACompt s
  | .aCompp => Sys2Proof.Machine.execACompp s
  | .aCompp64 => Sys2Proof.Machine.execACompp64 s
  | .aComph => Sys2Proof.Machine.execAComph s
  | .aComphf => Sys2Proof.Machine.execAComphf s
  | .aEst => Sys2Proof.Machine.execAEst s
  | .bOwrst => Sys2Proof.Machine.execBOwrst s
  | .bOwwbit => Sys2Proof.Machine.execBOwwbit s
  | .bOwrbit => Sys2Proof.Machine.execBOwrbit s
  | .bOwwbyte => Sys2Proof.Machine.execBOwwbyte s
  | .bOwrbyte => Sys2Proof.Machine.execBOwrbyte s
  | .bOwinit => Sys2Proof.Machine.execBOwinit s
  | .bOwconv => Sys2Proof.Machine.execBOwconv s
  | .bOwrsp => Sys2Proof.Machine.execBOwrsp s
  | .bOwdec => Sys2Proof.Machine.execBOwdec s
  | .bCrc8 len => Sys2Proof.Machine.execBCrc8 len s
  | .owSkipRom => Sys2Proof.Machine.execOwSkipRom s
  | .owConvertT => Sys2Proof.Machine.execOwConvertT s
  | .owReadScratchpad => Sys2Proof.Machine.execOwReadScratchpad s
  | .owWriteScratchpad => Sys2Proof.Machine.execOwWriteScratchpad s

end Sys2Proof.Machine
end

