-- ==== Sys2Proof/WellFormed.lean ====
section
/-! DEFINITION. Which terms of `Instr` stand for an encoding: the only operand field of the table is `LEN` of `CRC8`,
five bits wide (30_encoding.md R150). `LEN` 17 to 31 is a well-formed command that raises `ILLEGAL_OPERAND` (R163). -/

namespace Sys2Proof

/-- The operand fits its field of the command word (R150). -/
def Instr.wellFormed : Instr → Bool
  | .bCrc8 len => decide (len < 32)
  | .aId | .aSrst | .aLdcal | .aCfg | .aStat | .aRdraw => true
  | .aCompt | .aCompp | .aCompp64 | .aComph | .aComphf | .aEst => true
  | .bOwrst | .bOwwbit | .bOwrbit | .bOwwbyte | .bOwrbyte => true
  | .bOwinit | .bOwconv | .bOwrsp | .bOwdec => true
  | .owSkipRom | .owConvertT | .owReadScratchpad | .owWriteScratchpad => true

end Sys2Proof
end

