-- ==== Sys2Proof/Decode.lean ====
section
/-! DEFINITION. Decoding command words and single-wire command bytes (30_encoding.md R150 to R156, R170), the
encoder, and the opcode table's `match`/`mask` rows. -/

namespace Sys2Proof

/-- Why a word is no command (R155) or a byte no single-wire command the block sends (R170). -/
inductive Reject where
  /-- `RSV` (bits 31:13) is not 0 -/
  | reservedBits
  /-- `OP` is not in the channel's map -/
  | unknownOpcode
  /-- `LEN` is not 0 on a command other than `CRC8` -/
  | lenNotZero
  /-- not one of the four single-wire command bytes -/
  | unknownBusByte
deriving DecidableEq, Repr

/-- `OP`, bits 7:0 of a command word (R150). -/
def opField (w : Word) : Byte := w.extractLsb' 0 8

/-- `LEN`, bits 12:8 (R150). -/
def lenField (w : Word) : BitVec 5 := w.extractLsb' 8 5

/-- `RSV`, bits 31:13 (R150). -/
def rsvField (w : Word) : BitVec 19 := w.extractLsb' 13 19

/-- The channel-A opcode map (R153). -/
def opcodeMapA : List (Byte × Instr) :=
  [(0x01, .aId), (0x02, .aSrst), (0x03, .aLdcal), (0x04, .aCfg), (0x05, .aStat), (0x06, .aRdraw),
   (0x08, .aCompt), (0x09, .aCompp), (0x0A, .aCompp64), (0x0B, .aComph), (0x0C, .aComphf), (0x0D, .aEst)]

/-- The channel-B opcode map (R154); `CRC8` carries the `LEN` field. -/
def opcodeMapB (len : Nat) : List (Byte × Instr) :=
  [(0x10, .bOwrst), (0x11, .bOwwbit), (0x12, .bOwrbit), (0x13, .bOwwbyte), (0x14, .bOwrbyte),
   (0x18, .bOwinit), (0x19, .bOwconv), (0x1A, .bOwrsp), (0x1B, .bOwdec), (0x20, .bCrc8 len)]

/-- The map of the channel whose `CMD` register received the word (R152). -/
def opcodeMap (ch : Channel) (len : Nat) : List (Byte × Instr) :=
  match ch with
  | .a => opcodeMapA
  | .b => opcodeMapB len

/-- `CRC8` alone has a `LEN` operand (R150). -/
def Instr.takesLen : Instr → Bool
  | .bCrc8 _ => true
  | .aId | .aSrst | .aLdcal | .aCfg | .aStat | .aRdraw => false
  | .aCompt | .aCompp | .aCompp64 | .aComph | .aComphf | .aEst => false
  | .bOwrst | .bOwwbit | .bOwrbit | .bOwwbyte | .bOwrbyte => false
  | .bOwinit | .bOwconv | .bOwrsp | .bOwdec => false
  | .owSkipRom | .owConvertT | .owReadScratchpad | .owWriteScratchpad => false

/-- Decoding a command word on a channel, total on words (R156). -/
def decode (ch : Channel) (w : Word) : Except Reject Instr :=
  if rsvField w ≠ 0 then .error .reservedBits
  else
    match (opcodeMap ch (lenField w).toNat).lookup (opField w) with
    | none => .error .unknownOpcode
    | some i => if lenField w ≠ 0 ∧ i.takesLen = false then .error .lenNotZero else .ok i

/-- The single-wire command bytes (R170). -/
def busByteMap : List (Byte × Instr) :=
  [(0xCC, .owSkipRom), (0x44, .owConvertT), (0xBE, .owReadScratchpad), (0x4E, .owWriteScratchpad)]

/-- Decoding a single-wire command byte (R170). -/
def decodeBus (v : Byte) : Except Reject Instr :=
  match busByteMap.lookup v with
  | none => .error .unknownBusByte
  | some i => .ok i

/-- Where an instruction's word is decoded: on a channel, or as a byte on the single wire. -/
inductive Place where
  | channel (ch : Channel)
  | bus
deriving DecidableEq, Repr

/-- The place of an instruction: the format column of the opcode table (CMD-A, CMD-B, OW-CMD). -/
def Instr.place : Instr → Place
  | .aId | .aSrst | .aLdcal | .aCfg | .aStat | .aRdraw => .channel .a
  | .aCompt | .aCompp | .aCompp64 | .aComph | .aComphf | .aEst => .channel .a
  | .bOwrst | .bOwwbit | .bOwrbit | .bOwwbyte | .bOwrbyte => .channel .b
  | .bOwinit | .bOwconv | .bOwrsp | .bOwdec | .bCrc8 _ => .channel .b
  | .owSkipRom | .owConvertT | .owReadScratchpad | .owWriteScratchpad => .bus

/-- How many bits the encoding at a place has: a command word 32 (R151), a single-wire command byte 8 (R170). -/
def Place.nbits : Place → Nat
  | .channel _ => 32
  | .bus => 8

/-- The opcode or command byte of an instruction (R153, R154, R170). -/
def Instr.opcode : Instr → Byte
  | .aId => 0x01
  | .aSrst => 0x02
  | .aLdcal => 0x03
  | .aCfg => 0x04
  | .aStat => 0x05
  | .aRdraw => 0x06
  | .aCompt => 0x08
  | .aCompp => 0x09
  | .aCompp64 => 0x0A
  | .aComph => 0x0B
  | .aComphf => 0x0C
  | .aEst => 0x0D
  | .bOwrst => 0x10
  | .bOwwbit => 0x11
  | .bOwrbit => 0x12
  | .bOwwbyte => 0x13
  | .bOwrbyte => 0x14
  | .bOwinit => 0x18
  | .bOwconv => 0x19
  | .bOwrsp => 0x1A
  | .bOwdec => 0x1B
  | .bCrc8 _ => 0x20
  | .owSkipRom => 0xCC
  | .owConvertT => 0x44
  | .owReadScratchpad => 0xBE
  | .owWriteScratchpad => 0x4E

/-- The `LEN` field an instruction is written with: 0 but for `CRC8` (R150, R163). -/
def Instr.lenOperand : Instr → Nat
  | .bCrc8 len => len
  | .aId | .aSrst | .aLdcal | .aCfg | .aStat | .aRdraw => 0
  | .aCompt | .aCompp | .aCompp64 | .aComph | .aComphf | .aEst => 0
  | .bOwrst | .bOwwbit | .bOwrbit | .bOwwbyte | .bOwrbyte => 0
  | .bOwinit | .bOwconv | .bOwrsp | .bOwdec => 0
  | .owSkipRom | .owConvertT | .owReadScratchpad | .owWriteScratchpad => 0

/-- The word of a well-formed instruction: `RSV` = 0, `LEN`, `OP` (R150); a single-wire command byte stands in bits 7:0. -/
def encode (i : Instr) : Word :=
  (0 : BitVec 19) ++ (BitVec.ofNat 5 i.lenOperand ++ i.opcode)

/-- The instruction that a word of `nbits` bits spells: a byte on the single wire, or a command word on the channel
whose map has its opcode (the two maps share no opcode, R153, R154). -/
def decodeTableWord (nbits w : Nat) : Option Instr :=
  if nbits ≤ 8 then (decodeBus (BitVec.ofNat 8 w)).toOption
  else
    match decode .a (BitVec.ofNat 32 w) with
    | .ok i => some i
    | .error _ => (decode .b (BitVec.ofNat 32 w)).toOption

/-- One row of spec/opcode_table.json. -/
structure Row where
  mnemonic : String
  place : Place
  pattern : Word
  mask : Word
deriving DecidableEq, Repr

/-- The rows of spec/opcode_table.json, in its order. -/
def opcodeTable : List Row :=
  [⟨"A.ID", .channel .a, 0x00000001, 0xFFFFFFFF⟩, ⟨"A.SRST", .channel .a, 0x00000002, 0xFFFFFFFF⟩,
   ⟨"A.LDCAL", .channel .a, 0x00000003, 0xFFFFFFFF⟩, ⟨"A.CFG", .channel .a, 0x00000004, 0xFFFFFFFF⟩,
   ⟨"A.STAT", .channel .a, 0x00000005, 0xFFFFFFFF⟩, ⟨"A.RDRAW", .channel .a, 0x00000006, 0xFFFFFFFF⟩,
   ⟨"A.COMPT", .channel .a, 0x00000008, 0xFFFFFFFF⟩, ⟨"A.COMPP", .channel .a, 0x00000009, 0xFFFFFFFF⟩,
   ⟨"A.COMPP64", .channel .a, 0x0000000A, 0xFFFFFFFF⟩, ⟨"A.COMPH", .channel .a, 0x0000000B, 0xFFFFFFFF⟩,
   ⟨"A.COMPHF", .channel .a, 0x0000000C, 0xFFFFFFFF⟩, ⟨"A.EST", .channel .a, 0x0000000D, 0xFFFFFFFF⟩,
   ⟨"B.OWRST", .channel .b, 0x00000010, 0xFFFFFFFF⟩, ⟨"B.OWWBIT", .channel .b, 0x00000011, 0xFFFFFFFF⟩,
   ⟨"B.OWRBIT", .channel .b, 0x00000012, 0xFFFFFFFF⟩, ⟨"B.OWWBYTE", .channel .b, 0x00000013, 0xFFFFFFFF⟩,
   ⟨"B.OWRBYTE", .channel .b, 0x00000014, 0xFFFFFFFF⟩, ⟨"B.OWINIT", .channel .b, 0x00000018, 0xFFFFFFFF⟩,
   ⟨"B.OWCONV", .channel .b, 0x00000019, 0xFFFFFFFF⟩, ⟨"B.OWRSP", .channel .b, 0x0000001A, 0xFFFFFFFF⟩,
   ⟨"B.OWDEC", .channel .b, 0x0000001B, 0xFFFFFFFF⟩, ⟨"B.CRC8", .channel .b, 0x00000020, 0xFFFFE0FF⟩,
   ⟨"OW.SKIP_ROM", .bus, 0x000000CC, 0x000000FF⟩, ⟨"OW.CONVERT_T", .bus, 0x00000044, 0x000000FF⟩,
   ⟨"OW.READ_SCRATCHPAD", .bus, 0x000000BE, 0x000000FF⟩, ⟨"OW.WRITE_SCRATCHPAD", .bus, 0x0000004E, 0x000000FF⟩]

/-- The mnemonic of an instruction in spec/opcode_table.json. -/
def Instr.mnemonic : Instr → String
  | .aId => "A.ID"
  | .aSrst => "A.SRST"
  | .aLdcal => "A.LDCAL"
  | .aCfg => "A.CFG"
  | .aStat => "A.STAT"
  | .aRdraw => "A.RDRAW"
  | .aCompt => "A.COMPT"
  | .aCompp => "A.COMPP"
  | .aCompp64 => "A.COMPP64"
  | .aComph => "A.COMPH"
  | .aComphf => "A.COMPHF"
  | .aEst => "A.EST"
  | .bOwrst => "B.OWRST"
  | .bOwwbit => "B.OWWBIT"
  | .bOwrbit => "B.OWRBIT"
  | .bOwwbyte => "B.OWWBYTE"
  | .bOwrbyte => "B.OWRBYTE"
  | .bOwinit => "B.OWINIT"
  | .bOwconv => "B.OWCONV"
  | .bOwrsp => "B.OWRSP"
  | .bOwdec => "B.OWDEC"
  | .bCrc8 _ => "B.CRC8"
  | .owSkipRom => "OW.SKIP_ROM"
  | .owConvertT => "OW.CONVERT_T"
  | .owReadScratchpad => "OW.READ_SCRATCHPAD"
  | .owWriteScratchpad => "OW.WRITE_SCRATCHPAD"

/-- A word at a place matches a row: the same place, and the row's pattern under its mask. -/
def Row.matchesWord (r : Row) (p : Place) (w : Word) : Bool :=
  r.place == p && w &&& r.mask == r.pattern

end Sys2Proof
end

