-- ==== Sys2Proof/Machine/Fetch.lean ====
section
/-! DEFINITION. Which instruction a channel is running (10_state.md R50, 30_encoding.md R152, R155, R170): the decoding
of the accepted word on its own channel, or, while a command sends a single-wire command byte, that byte's. -/

namespace Sys2Proof.Machine

/-- What a channel's next step runs. -/
inductive Fetched where
  /-- the sequencer is `IDLE` -/
  | idle
  /-- the accepted word is no command of the channel (R155) -/
  | illegal
  /-- the instruction -/
  | instr (i : Instr)
deriving DecidableEq, Repr

/-- What channel A's next step runs. -/
def fetchA (s : State) : Fetched :=
  match s.a.seq with
  | .idle => .idle
  | .exec e =>
    match decode .a e.op with
    | .error _ => .illegal
    | .ok i => .instr i

/-- What a channel-B command does next (R410 to R510); `none` for what is no channel-B command. -/
def nextB (i : Instr) (e : ExecB) : Option ActB :=
  match i with
  | .bOwrst => some (owrstNext e)
  | .bOwwbit => some (owwbitNext e)
  | .bOwrbit => some (owrbitNext e)
  | .bOwwbyte => some (owwbyteNext e)
  | .bOwrbyte => some (owrbyteNext e)
  | .bOwinit => some (owinitNext e)
  | .bOwconv => some (owconvNext e)
  | .bOwrsp => some (owrspNext e)
  | .bOwdec => some (owdecNext e)
  | .bCrc8 len => some (crc8Next len e)
  | .aId | .aSrst | .aLdcal | .aCfg | .aStat | .aRdraw => none
  | .aCompt | .aCompp | .aCompp64 | .aComph | .aComphf | .aEst => none
  | .owSkipRom | .owConvertT | .owReadScratchpad | .owWriteScratchpad => none

/-- The single-wire command byte that a channel-B command is sending where it stands, if it is sending one (R170). -/
def busByteAt (i : Instr) (e : ExecB) : Option Byte :=
  match nextB i e with
  | some (.bus v) => some v
  | _ => none

/-- What a channel-B step runs for the command `i`: the single-wire command it is sending, or `i` itself (log 13). -/
def currentB (i : Instr) (e : ExecB) : Instr :=
  match busByteAt i e with
  | none => i
  | some v =>
    match decodeBus v with
    | .ok bus => bus
    | .error _ => i

/-- What channel B's next step runs. -/
def fetchB (s : State) : Fetched :=
  match s.b.seq with
  | .idle => .idle
  | .exec e =>
    match decode .b e.op with
    | .error _ => .illegal
    | .ok i => .instr (currentB i e)

/-- Where a command stands when it sends a single-wire command byte for the first time (R450, R460, R470): the command
word, the line of its pseudocode. -/
def busByteHome (v : Byte) : Option (Word × Nat) :=
  [((0xCC : Byte), ((0x00000019 : Word), 1)), (0x44, (0x00000019, 2)), (0xBE, (0x0000001A, 2)),
    (0x4E, (0x00000018, 2))].lookup v

/-- Channel B placed at the first primitive of a single-wire command byte, after a presence pulse; other bytes are sent
by no command, and place nothing (R170). -/
def placeBusByte (v : Byte) (s : State) : State :=
  match busByteHome v with
  | none => s
  | some (w, line) =>
    { acceptB w s with b := { (acceptB w s).b with
        seq := .exec { op := w, args := s.b.regs.arg, phase := ⟨line, 0⟩, staged := [false] } } }

/-- A command word placed in the sequencer of the channel whose map has it, as acceptance would (R52); a word of
neither map goes to channel A. -/
def placeCommand (w : Word) (s : State) : State :=
  match decode .b w with
  | .ok _ => { acceptB w s with schedule := .chb :: s.schedule }
  | .error _ => { acceptA w s with schedule := .cha :: s.schedule }

/-- An encoding of `nbits` bits placed where the next step runs it. -/
def placeWord (nbits w : Nat) (s : State) : State :=
  if nbits ≤ 8 then { placeBusByte (BitVec.ofNat 8 w) s with schedule := .chb :: s.schedule }
  else placeCommand (BitVec.ofNat 32 w) s

end Sys2Proof.Machine
end

