-- ==== Sys2Proof/Machine/HostAgent.lean ====
section
/-! DEFINITION. The HOST agent (00_scope.md R5): one turn performs one statement of its program (30_encoding.md R175,
R176), with the access checks of 10_state.md R31. -/

namespace Sys2Proof.Machine

/-- Whether an access may be made (R31, R100): 32 bits wide, else refused; at a multiple of 4, else refused; inside the
window, else a fault (log 7). `onOk` is what the access does. -/
def hostAccess (width offset : Nat) (onOk : State) : Host.Outcome State Fault Refusal :=
  if width ≠ 32 then .refused (.accessWidth width)
  else if offset % 4 ≠ 0 then .refused (.accessAlignment offset)
  else if Config.windowSize ≤ offset then .fault (.outsideWindow offset)
  else .next onOk

/-- The host with a read recorded: its offset and the value it returned (R175). -/
def HostAgent.observe (h : HostAgent) (offset : Nat) (v : Word) : HostAgent :=
  { h with observed := h.observed ++ [(offset, v)] }

/-- The offset of a channel's `STATUS` (R30). -/
def statusOffset : Channel → Nat
  | .a => 0x004
  | .b => 0x104

/-- The value of the last read of a register (R175). -/
def HostAgent.lastRead (h : HostAgent) (offset : Nat) : Option Word :=
  h.observed.reverse.lookup offset

/-- The state with the host's program gone on to `rest`. -/
def State.hostAt (s : State) (rest : List HostStmt) : State := { s with host := { s.host with program := rest } }

/-- The state with a read recorded by the host. -/
def State.hostSees (s : State) (offset : Nat) (v : Word) : State := { s with host := s.host.observe offset v }

/-- One turn of the HOST agent. `poll` reads `x_STATUS` and stays at itself while `BUSY` is 1 (R176); `expect` makes no
access (R175). A host with no statement left does nothing. -/
def stepHost (s : State) : Host.Outcome State Fault Refusal :=
  match s.host.program with
  | [] => .next s
  | .wr width offset v :: rest => hostAccess width offset (writeWindow offset v (s.hostAt rest))
  | .rd width offset :: rest => hostAccess width offset ((s.hostAt rest).hostSees offset (readWindow offset s))
  | .poll ch :: rest =>
    .next ((s.hostAt (if (s.status ch).getLsbD 0 then .poll ch :: rest else rest)).hostSees (statusOffset ch)
      (s.status ch))
  | .expect offset v :: rest =>
    if s.host.lastRead offset = some v then .next (s.hostAt rest) else .fault (.expectFailed offset)

/-- The offset of a channel's `CMD` (R30). -/
def cmdOffset : Channel → Nat
  | .a => 0x000
  | .b => 0x100

/-- `cmd A.MN`, `cmd B.MN`, `cmd B.CRC8, n` (R175): the write of the command word to its channel's `CMD`. -/
def cmdStmt (ch : Channel) (w : Word) : HostStmt := .wr 32 (cmdOffset ch) w

/-- `exec` (R176): `cmd`, then `poll`. -/
def execStmts (ch : Channel) (w : Word) : List HostStmt := [cmdStmt ch w, .poll ch]

/-- `setcfg ot, op, oh, f, sb, m` (R176): the write of the packed SensorConfig to `A_ARG0`. -/
def setcfgStmt (ot op oh f sb m : Word) : HostStmt :=
  .wr 32 0x010 (ot ||| op <<< 3 ||| oh <<< 6 ||| f <<< 9 ||| sb <<< 12 ||| m <<< 15)

/-- The host address of an offset of the window (R30, R118): its base is the platform's (log 6). -/
def hostAddress (offset : Nat) : Nat := Config.blockBase + offset

end Sys2Proof.Machine
end

