-- ==== Sys2Proof/Machine/Step.lean ====
section
/-! DEFINITION. One step of the machine: the next turn of the schedule (00_scope.md R5, 60_exceptions.md R612), and
`withFetchWord`, which places an encoding where the next step runs it. -/

namespace Sys2Proof.Machine

/-- One turn of what a channel runs: nothing when it is idle; `ILLEGAL_COMMAND` when its word is no command (R155,
R605); else the instruction. -/
def runFetched (f : Fetched) (illegal : State) (s : State) : Host.Outcome State Fault Refusal :=
  match f with
  | .idle => .next s
  | .illegal => .next illegal
  | .instr i => exec i s

/-- A turn of an agent. -/
def turn (ag : Agent) (s : State) : Host.Outcome State Fault Refusal :=
  match ag with
  | .host => stepHost s
  | .cha => runFetched (fetchA s) (raiseA .illegalCommand s) s
  | .chb => runFetched (fetchB s) (raiseB .illegalCommand s) s
  | .reset => .next (blockReset s)

/-- One step: the agent whose turn it is takes it, in a state whose schedule goes on after that turn. With no turn left
no agent moves (log 2). -/
def step (s : State) : Host.Outcome State Fault Refusal :=
  match s.schedule with
  | [] => .next s
  | ag :: rest => turn ag { s with schedule := rest }

/-- The state with an encoding of `nbits` bits placed in the sequencer of its channel and that channel's turn first, so
that the next step runs it (log 9). -/
def State.withFetchWord (s : State) (nbits w : Nat) : State := placeWord nbits w s

end Sys2Proof.Machine
end

