-- ==== Sys2Proof/Reference.lean ====
section
/-! DEFINITION. The compensation formulas of 41_compensation.md once more, over the integers: each line of R301, R311,
R321 and R331 as an integer expression brought back to its stated width (00_scope.md R8, R9), and R342 over the rationals with
binary64's rounding. The model computes them on bit vectors and dyadics; statements compare the two. Last, the polynomial
division that R502 says CRC8 is. No definition of the machine uses this file. -/

namespace Sys2Proof.Reference

/-- `s32(x)`: the two's-complement value of the low 32 bits (R8). -/
def s32 (x : Int) : Int := x.bmod (2 ^ 32)

/-- `u32(x)` (R8). -/
def u32 (x : Int) : Int := x % 2 ^ 32

/-- `s64(x)` (R8). -/
def s64 (x : Int) : Int := x.bmod (2 ^ 64)

/-- `v >> n` on a signed value: the floor of `v / 2^n` (R9). -/
def shr (x : Int) (n : Nat) : Int := x / 2 ^ n

/-- `t_fine` of R301. -/
def tFine (adcT t1 t2 t3 : Int) : Int :=
  let a1 := s32 (shr adcT 3 - s32 (t1 * 2))
  let var1 := shr (s32 (a1 * t2)) 11
  let b1 := s32 (shr adcT 4 - t1)
  let b3 := shr (s32 (b1 * b1)) 12
  let var2 := shr (s32 (b3 * t3)) 14
  s32 (var1 + var2)

/-- The temperature of R301, from its `t_fine`. -/
def temperature (tFine : Int) : Int :=
  max (-4000) (min 8500 (shr (s32 (s32 (tFine * 5) + 128)) 8))

/-- `compP32` of R311: `p1` to `p9` in `P`. -/
def pressure32 (adcP tFine : Int) (P : Nat → Int) : Int :=
  let v1 := s32 (shr tFine 1 - 64000)
  let q := shr v1 2
  let sq := s32 (q * q)
  let v2 := s32 (shr sq 11 * P 6)
  let v2 := s32 (v2 + s32 (s32 (v1 * P 5) * 2))
  let v2 := s32 (shr v2 2 + s32 (P 4 * 2 ^ 16))
  let w1 := shr (s32 (P 3 * shr sq 13)) 3
  let w2 := shr (s32 (P 2 * v1)) 1
  let v1 := shr (s32 (w1 + w2)) 18
  let v1 := shr (s32 (s32 (32768 + v1) * P 1)) 15
  if v1 = 0 then 0
  else
    let p := u32 (u32 (u32 (1048576 - adcP) - u32 (shr v2 12)) * 3125)
    let p := if p < 0x80000000 then u32 (p * 2) / u32 v1 else u32 (p / u32 v1 * 2)
    let x1 := shr (s32 (P 9 * s32 (u32 (p / 8 * (p / 8)) / 8192))) 12
    let x2 := shr (s32 (s32 (p / 4) * P 8)) 13
    u32 (s32 p + shr (s32 (s32 (x1 + x2) + P 7)) 4)

/-- `compP64` of R321. -/
def pressure64 (adcP tFine : Int) (P : Nat → Int) : Int :=
  let v1 := s64 (tFine - 128000)
  let v2 := s64 (s64 (v1 * v1) * P 6)
  let v2 := s64 (v2 + s64 (s64 (v1 * P 5) * 2 ^ 17))
  let v2 := s64 (v2 + s64 (P 4 * 2 ^ 35))
  let v1 := s64 (shr (s64 (s64 (v1 * v1) * P 3)) 8 + s64 (s64 (v1 * P 2) * 2 ^ 12))
  let v1 := shr (s64 (s64 (2 ^ 47 + v1) * P 1)) 33
  if v1 = 0 then 0
  else
    let p := s64 (1048576 - adcP)
    let p := s64 ((s64 (s64 (s64 (p * 2 ^ 31) - v2) * 3125)).tdiv v1)
    let x1 := shr (s64 (s64 (P 9 * shr p 13) * shr p 13)) 25
    let x2 := shr (s64 (P 8 * p)) 19
    let p := s64 (shr (s64 (s64 (p + x1) + x2)) 8 + s64 (P 7 * 2 ^ 4))
    u32 p

/-- `compH32` of R331: `h1` to `h6` in `H`. -/
def humidity32 (adcH tFine : Int) (H : Nat → Int) : Int :=
  let v := s32 (tFine - 76800)
  let a1 := s32 (s32 (s32 (adcH * 2 ^ 14) - s32 (H 4 * 2 ^ 20)) - s32 (H 5 * v))
  let a := shr (s32 (a1 + 16384)) 15
  let b1 := shr (s32 (v * H 6)) 10
  let b2 := s32 (shr (s32 (v * H 3)) 11 + 32768)
  let b3 := s32 (shr (s32 (b1 * b2)) 10 + 2097152)
  let b := shr (s32 (s32 (b3 * H 2) + 8192)) 14
  let v := s32 (a * b)
  let c1 := s32 (shr v 15 * shr v 15)
  let c2 := shr (s32 (shr c1 7 * H 1)) 4
  let v := s32 (v - c2)
  shr (max 0 (min 419430400 v)) 12

/-- The number a binary64 bit pattern stands for, exponent field below 2047 (R340: IEEE 754). -/
def binary64Value (w : Dword) : ℚ :=
  let sign : ℚ := if w.getLsbD 63 then -1 else 1
  let e := (w.extractLsb' 52 11).toNat
  let frac : ℚ := (w.extractLsb' 0 52).toNat
  if e = 0 then sign * frac * (2 : ℚ) ^ (-1074 : ℤ) else sign * (2 ^ 52 + frac) * (2 : ℚ) ^ ((e : ℤ) - 1075)

/-- A rational brought to an integer, to nearest with ties to even. -/
def nearestEven (y : ℚ) : Int :=
  let f := ⌊y⌋
  if y - f < 1 / 2 then f else if 1 / 2 < y - f then f + 1 else if f % 2 = 0 then f else f + 1

/-- A rational correctly rounded to binary64, to nearest with ties to even (R340): 53 significant bits, no place below
2^-1074. R340 excludes overflow. -/
def binary64Round (x : ℚ) : ℚ :=
  let e : Int := max (Int.log 2 |x| - 52) (-1074)
  nearestEven (x / (2 : ℚ) ^ e) * (2 : ℚ) ^ e

/-- A finite binary64 value as its sign bit and its number: a zero keeps its sign (IEEE 754; R341, I21). -/
structure Signed where
  neg : Bool
  val : ℚ
deriving DecidableEq, Repr

/-- An exact result correctly rounded (R340). It has its own sign, unless it is 0: then its sign bit is `zeroNeg`. -/
def Signed.rounded (zeroNeg : Bool) (x : ℚ) : Signed :=
  ⟨if x = 0 then zeroNeg else decide (x < 0), binary64Round x⟩

/-- `f64(i)`, exact (R340). -/
def Signed.ofInt (i : Int) : Signed := ⟨decide (i < 0), i⟩

/-- Addition (R340): an exact zero sum is +0 unless both terms are negative. -/
def Signed.add (x y : Signed) : Signed := rounded (x.neg && y.neg) (x.val + y.val)

/-- Subtraction (R340). -/
def Signed.sub (x y : Signed) : Signed := x.add ⟨!y.neg, -y.val⟩

/-- Multiplication (R340): a zero product is negative when one factor is. -/
def Signed.mul (x y : Signed) : Signed := rounded (x.neg ^^ y.neg) (x.val * y.val)

/-- Division by a nonzero divisor (R340). -/
def Signed.div (x y : Signed) : Signed := rounded (x.neg ^^ y.neg) (x.val / y.val)

/-- `compHf` of R342 over the rationals, each operation followed by its rounding: `h1` to `h6` in `H`. -/
def humidityFloat (adcH tFine : Int) (H : Nat → Int) : Signed :=
  let f := Signed.ofInt
  let v := (f tFine).sub (f 76800)
  let t1 := (f (H 4)).mul (f 64)
  let t2 := ((f (H 5)).div (f 16384)).mul v
  let t3 := (f adcH).sub (t1.add t2)
  let u1 := ((f (H 3)).div (f 67108864)).mul v
  let u2 := (f 1).add u1
  let u3 := (((f (H 6)).div (f 67108864)).mul v).mul u2
  let u4 := (f 1).add u3
  let u5 := ((f (H 2)).div (f 65536)).mul u4
  let v := t3.mul u5
  let w1 := ((f (H 1)).mul v).div (f 524288)
  let v := v.mul ((f 1).sub w1)
  if 100 < v.val then f 100 else if v.val < 0 then f 0 else v

/-- One step of long division of a bit sequence by x^8 + x^5 + x^4 + 1 (43_crc8.md R502), over GF(2): the remainder so
far takes the next bit, and the divisor is subtracted where it goes. -/
def divideBit (r : Nat) (b : Bool) : Nat :=
  let r := 2 * r + b.toNat
  if 256 ≤ r then r ^^^ 0x131 else r

/-- The remainder of a bit sequence, highest power first, times x^8. -/
def crcRemainder (bits : List Bool) : Nat := (bits ++ List.replicate 8 false).foldl divideBit 0

end Sys2Proof.Reference
end

