-- ==== Sys2Proof/Safety.lean ====
section
/-! DEFINITION. The terms statements use: runs of one instruction, the states a completion leaves, the traces the slots
leave (literal times of 42_single_wire.md), and the invariants of a safe run. -/

namespace Sys2Proof.Machine

/-- `n` channel steps of one instruction. -/
def execTimes : Nat → Instr → State → Host.Outcome State Fault Refusal
  | 0, _, s => .next s
  | n + 1, i, s =>
    match exec i s with
    | .next t => execTimes n i t
    | .fault r => .fault r
    | .refused r => .refused r

/-- `s` with channel A idle again, and only the given parts of it changed. -/
def State.endA (s : State) (regs : Regs) (cal : Cal) (trace : List EventA) (i2c : List I2cAnswer) : State :=
  { s with i2c := i2c, a := { s.a with regs := regs, cal := cal, trace := trace, seq := .idle } }

/-- `s` with channel B idle again, its line released, and only the given parts of it changed. -/
def State.endB (s : State) (regs : Regs) (sp : Scratchpad) (time : Nat) (trace : List EventB) (owline : List Bool) :
    State :=
  { s with
    owline := owline
    b := { regs := regs, sp := sp, drive := .released, time := time, trace := trace, seq := .idle } }

/-- The trace of the reset slot with the level it sampled (R401). -/
def resetTrace (level : Bool) : List EventB := [.driveLow 480, .release 70, .sample level, .wait 410]

/-- The trace of a write slot (R402). -/
def writeBitTrace (bit : Bool) : List EventB :=
  if bit then [.driveLow 15, .release 65] else [.driveLow 60, .release 20]

/-- The trace of a read slot with the level it sampled (R403). -/
def readBitTrace (level : Bool) : List EventB := [.driveLow 10, .release 5, .sample level, .wait 45]

/-- The eight bits of a byte, least significant first (R404). -/
def bitsOfByte (v : Byte) : List Bool := (List.range 8).map fun k => v.getLsbD k

/-- The trace of a written byte (R404). -/
def writeByteTrace (v : Byte) : List EventB := (bitsOfByte v).flatMap writeBitTrace

/-- The trace of a byte read (R404). -/
def readByteTrace (v : Byte) : List EventB := (bitsOfByte v).flatMap readBitTrace

/-- The trace of a conversion poll that read 0, with its delay (R460). -/
def busyPollTrace : List EventB := readBitTrace false ++ [.wait 1000]

/-- The line time of a trace in µs (R405, R740). -/
def lineTime : List EventB → Nat
  | [] => 0
  | .driveLow t :: rest => t + lineTime rest
  | .release t :: rest => t + lineTime rest
  | .wait t :: rest => t + lineTime rest
  | .sample _ :: rest => lineTime rest

/-- How many samples a trace holds. -/
def sampleCount : List EventB → Nat
  | [] => 0
  | .sample _ :: rest => sampleCount rest + 1
  | .driveLow _ :: rest => sampleCount rest
  | .release _ :: rest => sampleCount rest
  | .wait _ :: rest => sampleCount rest

/-- Byte sequence with bit `k` flipped: bit `k % 8` of byte `k / 8` (43_crc8.md R502). -/
def flipBit (k : Nat) (bytes : List Byte) : List Byte :=
  bytes.set (k / 8) (bytes.getD (k / 8) 0 ^^^ (1 <<< (k % 8)))

/-- The nine bytes of the scratchpad bank (R47). -/
def Scratchpad.bytes (sp : Scratchpad) : List Byte :=
  [wordByte sp.sp0 0, wordByte sp.sp0 1, wordByte sp.sp0 2, wordByte sp.sp0 3,
   wordByte sp.sp1 0, wordByte sp.sp1 1, wordByte sp.sp1 2, wordByte sp.sp1 3, sp.sp2]

/-- `SP_VALID` says the bank holds a scratchpad whose CRC8 is right (R38, R47). -/
def ScratchpadValid (s : State) : Prop := s.b.regs.valid = true → validScratchpad s.b.sp.bytes = true

/-- The line drive after a sequence of primitives that began with the line released (R57). -/
def driveAfter (ops : List PrimB) : LineDrive :=
  ops.foldl (fun d p =>
    match p with
    | .driveLow _ => .low
    | .release _ => .released
    | .wait _ => d
    | .sample => d) .released

/-- The primitives of its present line that a channel-B command has performed. -/
def sentSoFar (e : ExecB) : List PrimB :=
  match decode .b e.op with
  | .error _ => []
  | .ok i =>
    match nextB i e with
    | some (.slot ops) => ops.take e.phase.sub
    | some (.bus v) => (writeByteOps v).take e.phase.sub
    | some (.done _) => []
    | some (.raise _) => []
    | none => []

/-- `LINE` is released whenever channel B is idle, and inside a slot is as the slot's primitives so far leave it (R57). -/
def LineQuiet (s : State) : Prop :=
  match s.b.seq with
  | .idle => s.b.drive = .released
  | .exec e => s.b.drive = driveAfter (sentSoFar e)

/-- What the registers of a channel show while it is idle and `DONE` is 0: their reset values (R36). -/
def Regs.fresh (r : Regs) : Prop :=
  r.err = .ok ∧ r.lastop = 0 ∧ r.res = .zero ∧ r.valid = false ∧ r.ovr = false

/-- `DONE` = 0 and `BUSY` = 0 together happen only after reset, before the first command (R36). -/
def FreshUntilFirstCommand (s : State) : Prop :=
  (s.a.seq = .idle → s.a.regs.done = false → s.a.regs.fresh ∧ s.a.cal = .zero ∧ s.a.trace = []) ∧
  (s.b.seq = .idle → s.b.regs.done = false → s.b.regs.fresh ∧ s.b.sp = ⟨0, 0, 0⟩ ∧ s.b.trace = [])

/-- The codes other than `OK` and `ILLEGAL_COMMAND` that an instruction can end with (60_exceptions.md R602). -/
def Instr.codes : Instr → List ErrCode
  | .aId | .aSrst | .aStat | .aRdraw => [.deviceNotFound, .transportError]
  | .aLdcal => [.calLocked, .deviceNotFound, .transportError]
  | .aCfg => [.illegalOperand, .deviceNotFound, .transportError]
  | .aCompt | .aCompp | .aCompp64 | .aComph | .aComphf => [.invalidCalibration]
  | .aEst => [.illegalOperand]
  | .bOwrst | .bOwwbit | .bOwrbit | .bOwwbyte | .bOwrbyte | .bOwdec => []
  | .bOwinit => [.deviceNotFound]
  | .bOwconv => [.deviceNotFound, .conversionTimeout]
  | .bOwrsp => [.deviceNotFound, .crcMismatch]
  | .bCrc8 _ => [.illegalOperand]
  | .owSkipRom | .owConvertT | .owReadScratchpad | .owWriteScratchpad => []

/-- The codes a command with this opcode field can end with on a channel (R602). -/
def codesOfOpcode (ch : Channel) (op : Byte) : List ErrCode :=
  .ok :: .illegalCommand :: (((opcodeMap ch 0).lookup op).map Instr.codes).getD []

/-- `ERR` of a completed command is a code that the command of `LASTOP` can raise (R602), and `LASTOP` is the opcode of
the command that runs (R41). -/
def CodesFitCommand (s : State) : Prop :=
  (match s.a.seq with
    | .idle => s.a.regs.done = true → s.a.regs.err ∈ codesOfOpcode .a s.a.regs.lastop
    | .exec e => s.a.regs.lastop = e.op.extractLsb' 0 8 ∧
        ∀ c, e.phase = .raised c → c ∈ codesOfOpcode .a s.a.regs.lastop) ∧
  (match s.b.seq with
    | .idle => s.b.regs.done = true → s.b.regs.err ∈ codesOfOpcode .b s.b.regs.lastop
    | .exec e => s.b.regs.lastop = e.op.extractLsb' 0 8)

/-- The reads of the combined sensor the block makes: address and length (20_memory.md R101). -/
def sensorReads : List (Byte × Nat) :=
  [(0x88, 24), (0xA1, 1), (0xD0, 1), (0xE1, 7), (0xF2, 1), (0xF3, 1), (0xF4, 1), (0xF5, 1), (0xF7, 8)]

/-- The registers of the combined sensor the block writes (R101). -/
def sensorWrites : List Byte := [0xE0, 0xF2, 0xF4, 0xF5]

/-- A bus event touches a register of R101's list, with the length listed there (R102). -/
def EventA.listed : EventA → Prop
  | .memRead _ addr n _ => (addr, n) ∈ sensorReads
  | .memWrite _ addr bytes _ => addr ∈ sensorWrites ∧ bytes.length = 1 ∧ (addr = 0xE0 → bytes = [0xB6])

/-- Every bus event of channel A is one that R101 lists (R102). -/
def SensorAccessesListed (s : State) : Prop := ∀ ev ∈ s.a.trace, ev.listed

/-- `H4` and `H5` hold values in −2048..2047 (R45). -/
def NibbleCoefficientsInRange (s : State) : Prop :=
  (-2048 ≤ s.a.cal.h4.toInt ∧ s.a.cal.h4.toInt ≤ 2047) ∧ (-2048 ≤ s.a.cal.h5.toInt ∧ s.a.cal.h5.toInt ≤ 2047)

/-- The timebase counts the line time of the trace (R58, log 14). -/
def TimebaseCounts (s : State) : Prop := s.b.time = lineTime s.b.trace

/-- The pressure coefficients `P1` to `P9` as integers (R311). -/
def Cal.pressure (c : Cal) : Nat → Int
  | 1 => c.p1.toNat
  | 2 => c.p2.toInt
  | 3 => c.p3.toInt
  | 4 => c.p4.toInt
  | 5 => c.p5.toInt
  | 6 => c.p6.toInt
  | 7 => c.p7.toInt
  | 8 => c.p8.toInt
  | 9 => c.p9.toInt
  | _ => 0

/-- The humidity coefficients `H1` to `H6` as integers (R331). -/
def Cal.humidity (c : Cal) : Nat → Int
  | 1 => c.h1.toNat
  | 2 => c.h2.toInt
  | 3 => c.h3.toNat
  | 4 => c.h4.toInt
  | 5 => c.h5.toInt
  | 6 => c.h6.toInt
  | _ => 0

/-- The sign bit and the number of a binary64 value of the machine (41_compensation.md R340). -/
def F64.signed (x : F64) : Reference.Signed :=
  ⟨x.neg, (if x.neg then -1 else 1) * (x.mant : ℚ) * (2 : ℚ) ^ x.exp⟩

/-- Channel A is running the command `i`. -/
def State.runsA (s : State) (i : Instr) : Prop := ∃ e, s.a.seq = .exec e ∧ decode .a e.op = .ok i

/-- Channel B is running the command `i`. -/
def State.runsB (s : State) (i : Instr) : Prop := ∃ e, s.b.seq = .exec e ∧ decode .b e.op = .ok i

/-- A step from `s` to `t` was a block reset. -/
def resetTurn (s : State) : Prop := s.schedule.head? = some .reset

/-- A step from `s` to `t` completed the channel-A command with `OK` (R56). -/
def completedA (s t : State) : Prop :=
  s.schedule.head? = some .cha ∧ s.a.seq.busy = true ∧ t.a.seq = .idle ∧ t.a.regs.done = true ∧ t.a.regs.err = .ok

/-- A step from `s` to `t` completed the channel-B command with `OK` (R56). -/
def completedB (s t : State) : Prop :=
  s.schedule.head? = some .chb ∧ s.b.seq.busy = true ∧ t.b.seq = .idle ∧ t.b.regs.done = true ∧ t.b.regs.err = .ok

/-- A step keeps a property. -/
def KeptByStep (P : State → Prop) : Prop := ∀ s t, P s → step s = .next t → P t

end Sys2Proof.Machine
end

