-- ==== Sys2Proof/Certificates/Slice0/Obligations.lean ====
section
/-! DEFINITION. The statements about SRAC for the provers: the host window, decoding, every command's own effect, and
the rules of the whole machine. -/

open Sys2Proof Sys2Proof.Machine

/-! ### Reset and the host window -/

/-- R60: what every host read shows after block reset, and the state the host cannot read. -/
def Obligations.ResetStateValues : Prop :=
  (∀ offset, readWindow offset State.reset = if offset = 0x008 then 0x76 else 0) ∧
  State.reset.a.seq = .idle ∧ State.reset.b.seq = .idle ∧ State.reset.b.drive = .released ∧
  State.reset.a.trace = [] ∧ State.reset.b.trace = []

/-- R700, R702: a reset turn puts both channels at their reset state and changes nothing outside the block. That the
turn is one event, and what it leaves alone, is log 8; that it sets the timebase to 0, which R60 does not list, is the
model's choice, log 14. -/
def Obligations.BlockResetTurn : Prop :=
  ∀ (s : State) (q : List Agent), s.schedule = .reset :: q →
    step s = .next { a := State.reset.a, b := State.reset.b, host := s.host, i2c := s.i2c, owline := s.owline, schedule := q }

/-- R34, R600: every bit of the status word, on both channels, the nine codes of `ERR` by their numbers. -/
def Obligations.StatusWordLayout : Prop :=
  ∀ (s : State) (ch : Channel),
    let w := readWindow (statusOffset ch) s
    let busy := match ch with
      | .a => s.a.seq.busy
      | .b => s.b.seq.busy
    w.getLsbD 0 = busy ∧ w.getLsbD 1 = (s.regs ch).done ∧ w.getLsbD 2 = (s.regs ch).valid ∧
    w.getLsbD 3 = (s.regs ch).ovr ∧ w.extractLsb' 4 4 = 0 ∧ w.extractLsb' 8 8 = (match (s.regs ch).err with
      | .ok => 0x00
      | .transportError => 0x01
      | .deviceNotFound => 0x02
      | .invalidCalibration => 0x03
      | .crcMismatch => 0x04
      | .conversionTimeout => 0x05
      | .illegalCommand => 0x06
      | .illegalOperand => 0x07
      | .calLocked => 0x08 : Byte) ∧
    w.extractLsb' 16 8 = (s.regs ch).lastop ∧ w.extractLsb' 24 8 = 0

/-- R52: a word written to `x_CMD` while the channel is idle is accepted, whatever the word. -/
def Obligations.HostCommandAccepted : Prop :=
  (∀ (s : State) (w : Word) (p : List HostStmt) (q : List Agent),
    s.schedule = .host :: q → s.host.program = .wr 32 0x000 w :: p → s.a.seq = .idle →
    step s = .next { s with
      schedule := q
      host := { s.host with program := p }
      a := { s.a with
        regs := { s.a.regs with done := false, lastop := w.extractLsb' 0 8 }
        seq := .exec ⟨w, s.a.regs.arg, s.a.devaddr, .prim 0, []⟩ } }) ∧
  (∀ (s : State) (w : Word) (p : List HostStmt) (q : List Agent),
    s.schedule = .host :: q → s.host.program = .wr 32 0x100 w :: p → s.b.seq = .idle →
    step s = .next { s with
      schedule := q
      host := { s.host with program := p }
      b := { s.b with
        regs := { s.b.regs with done := false, lastop := w.extractLsb' 0 8 }
        seq := .exec ⟨w, s.b.regs.arg, ⟨0, 0⟩, []⟩ } })

/-- R53: a word written to `x_CMD` while the channel is busy changes `OVR` and nothing else of the block. -/
def Obligations.HostCommandDropped : Prop :=
  (∀ (s : State) (w : Word) (p : List HostStmt) (q : List Agent) (e : ExecA),
    s.schedule = .host :: q → s.host.program = .wr 32 0x000 w :: p → s.a.seq = .exec e →
    step s = .next { s with
      schedule := q
      host := { s.host with program := p }
      a := { s.a with regs := { s.a.regs with ovr := true } } }) ∧
  (∀ (s : State) (w : Word) (p : List HostStmt) (q : List Agent) (e : ExecB),
    s.schedule = .host :: q → s.host.program = .wr 32 0x100 w :: p → s.b.seq = .exec e →
    step s = .next { s with
      schedule := q
      host := { s.host with program := p }
      b := { s.b with regs := { s.b.regs with ovr := true } } })

/-- R34, R42, R43: what a host write to `x_STATUS`, `A_CTRL` and `x_ARG` does, on an idle and on a busy channel. -/
def Obligations.HostRegisterWrites : Prop :=
  ∀ (s : State) (v : Word) (p : List HostStmt) (q : List Agent) (offset : Nat),
    s.schedule = .host :: q → s.host.program = .wr 32 offset v :: p →
    let h : HostAgent := { s.host with program := p }
    (offset = 0x004 → step s = .next { s with
      schedule := q, host := h
      a := { s.a with regs := { s.a.regs with ovr := if v.getLsbD 3 then false else s.a.regs.ovr } } }) ∧
    (offset = 0x104 → step s = .next { s with
      schedule := q, host := h
      b := { s.b with regs := { s.b.regs with ovr := if v.getLsbD 3 then false else s.b.regs.ovr } } }) ∧
    (offset = 0x008 → step s = .next { s with
      schedule := q, host := h, a := { s.a with devaddr := v.extractLsb' 0 7 } }) ∧
    (offset = 0x010 → step s = .next { s with
      schedule := q, host := h
      a := { s.a with regs := { s.a.regs with arg := { s.a.regs.arg with r0 := v } } } }) ∧
    (offset = 0x014 → step s = .next { s with
      schedule := q, host := h
      a := { s.a with regs := { s.a.regs with arg := { s.a.regs.arg with r1 := v } } } }) ∧
    (offset = 0x018 → step s = .next { s with
      schedule := q, host := h
      a := { s.a with regs := { s.a.regs with arg := { s.a.regs.arg with r2 := v } } } }) ∧
    (offset = 0x01C → step s = .next { s with
      schedule := q, host := h
      a := { s.a with regs := { s.a.regs with arg := { s.a.regs.arg with r3 := v } } } }) ∧
    (offset = 0x110 → step s = .next { s with
      schedule := q, host := h
      b := { s.b with regs := { s.b.regs with arg := { s.b.regs.arg with r0 := v } } } }) ∧
    (offset = 0x114 → step s = .next { s with
      schedule := q, host := h
      b := { s.b with regs := { s.b.regs with arg := { s.b.regs.arg with r1 := v } } } }) ∧
    (offset = 0x118 → step s = .next { s with
      schedule := q, host := h
      b := { s.b with regs := { s.b.regs with arg := { s.b.regs.arg with r2 := v } } } }) ∧
    (offset = 0x11C → step s = .next { s with
      schedule := q, host := h
      b := { s.b with regs := { s.b.regs with arg := { s.b.regs.arg with r3 := v } } } })

/-- R32: an aligned write inside the window to any register that R30 does not call writable changes nothing of the block. -/
def Obligations.HostIgnoredWrites : Prop :=
  ∀ (s : State) (v : Word) (p : List HostStmt) (q : List Agent) (offset : Nat),
    s.schedule = .host :: q → s.host.program = .wr 32 offset v :: p → offset % 4 = 0 → offset < 0x200 →
    offset ∉ [0x000, 0x004, 0x008, 0x010, 0x014, 0x018, 0x01C, 0x100, 0x104, 0x110, 0x114, 0x118, 0x11C] →
    step s = .next { s with schedule := q, host := { s.host with program := p } }

/-- R117, R32, R176: a host read changes nothing but what the host has seen; `x_CMD` and reserved offsets read 0; `poll`
reads `x_STATUS` again while its bit 0 is 1. -/
def Obligations.HostReads : Prop :=
  (∀ (s : State) (p : List HostStmt) (q : List Agent) (offset : Nat),
    s.schedule = .host :: q → s.host.program = .rd 32 offset :: p → offset % 4 = 0 → offset < 0x200 →
    step s = .next { s with
      schedule := q
      host := { program := p, observed := s.host.observed ++ [(offset, readWindow offset s)] } }) ∧
  (∀ (s : State) (offset : Nat),
    ¬ (offset ∈ [0x004, 0x008, 0x104] ∨ (0x010 ≤ offset ∧ offset ≤ 0x02C) ∨ (0x040 ≤ offset ∧ offset ≤ 0x084) ∨
      (0x110 ≤ offset ∧ offset ≤ 0x12C) ∨ (0x130 ≤ offset ∧ offset ≤ 0x138)) →
    readWindow offset s = 0) ∧
  (∀ (s : State) (ch : Channel) (p : List HostStmt) (q : List Agent),
    s.schedule = .host :: q → s.host.program = .poll ch :: p →
    let w := readWindow (match ch with | .a => 0x004 | .b => 0x104) s
    step s = .next { s with
      schedule := q
      host := {
        program := if w.getLsbD 0 then .poll ch :: p else p
        observed := s.host.observed ++ [((match ch with | .a => 0x004 | .b => 0x104), w)] } })

/-- R30, R45, R47: what the window shows at the offset of every argument, result, coefficient and scratchpad register;
the coefficients as integers, so that each one's widening is said. -/
def Obligations.RegisterWindowLayout : Prop :=
  ∀ s : State,
    readWindow 0x010 s = s.a.regs.arg.r0 ∧ readWindow 0x014 s = s.a.regs.arg.r1 ∧
    readWindow 0x018 s = s.a.regs.arg.r2 ∧ readWindow 0x01C s = s.a.regs.arg.r3 ∧
    readWindow 0x020 s = s.a.regs.res.r0 ∧ readWindow 0x024 s = s.a.regs.res.r1 ∧
    readWindow 0x028 s = s.a.regs.res.r2 ∧ readWindow 0x02C s = s.a.regs.res.r3 ∧
    readWindow 0x110 s = s.b.regs.arg.r0 ∧ readWindow 0x114 s = s.b.regs.arg.r1 ∧
    readWindow 0x118 s = s.b.regs.arg.r2 ∧ readWindow 0x11C s = s.b.regs.arg.r3 ∧
    readWindow 0x120 s = s.b.regs.res.r0 ∧ readWindow 0x124 s = s.b.regs.res.r1 ∧
    readWindow 0x128 s = s.b.regs.res.r2 ∧ readWindow 0x12C s = s.b.regs.res.r3 ∧
    (readWindow 0x008 s).toNat = s.a.devaddr.toNat ∧
    (readWindow 0x040 s).toInt = s.a.cal.t1.toNat ∧ (readWindow 0x044 s).toInt = s.a.cal.t2.toInt ∧
    (readWindow 0x048 s).toInt = s.a.cal.t3.toInt ∧
    (∀ k, 1 ≤ k → k ≤ 9 → (readWindow (0x048 + 4 * k) s).toInt = s.a.cal.pressure k) ∧
    (∀ k, 1 ≤ k → k ≤ 6 → (readWindow (0x06C + 4 * k) s).toInt = s.a.cal.humidity k) ∧
    readWindow 0x130 s = s.b.sp.sp0 ∧ readWindow 0x134 s = s.b.sp.sp1 ∧
    (readWindow 0x138 s).toNat = s.b.sp.sp2.toNat

/-- R31: a host access that is not 32 bits wide or not at a multiple of 4 is refused, read or write. -/
def Obligations.HostAccessRefused : Prop :=
  ∀ (s : State) (p : List HostStmt) (q : List Agent) (width offset : Nat) (v : Word),
    s.schedule = .host :: q →
    s.host.program = .wr width offset v :: p ∨ s.host.program = .rd width offset :: p →
    (width ≠ 32 → step s = .refused (.accessWidth width)) ∧
    (width = 32 → offset % 4 ≠ 0 → step s = .refused (.accessAlignment offset))

/-- R54, R55, R35: whatever the host does, a running command, its latched copies, its trace, and the results, `VALID`,
`ERR` and bank of its channel stay as they were. -/
def Obligations.HostCannotReachRunningCommand : Prop :=
  ∀ s t : State, turn .host s = .next t →
    (∀ e, s.a.seq = .exec e → t.a.seq = .exec e ∧ t.a.trace = s.a.trace ∧ t.a.regs.res = s.a.regs.res ∧
      t.a.regs.valid = s.a.regs.valid ∧ t.a.regs.err = s.a.regs.err ∧ t.a.regs.done = s.a.regs.done ∧
      t.a.regs.lastop = s.a.regs.lastop ∧ t.a.cal = s.a.cal) ∧
    (∀ e, s.b.seq = .exec e → t.b.seq = .exec e ∧ t.b.trace = s.b.trace ∧ t.b.regs.res = s.b.regs.res ∧
      t.b.regs.valid = s.b.regs.valid ∧ t.b.regs.err = s.b.regs.err ∧ t.b.regs.done = s.b.regs.done ∧
      t.b.regs.lastop = s.b.regs.lastop ∧ t.b.sp = s.b.sp ∧ t.b.drive = s.b.drive)

/-! ### Decoding and the step -/

/-- Command words and command bytes written out from R153, R154 and R170 decode to their instructions. -/
def Obligations.DecodeSpecWords : Prop :=
  decode .a 0x00000001 = .ok .aId ∧ decode .a 0x00000004 = .ok .aCfg ∧ decode .a 0x0000000A = .ok .aCompp64 ∧
  decode .b 0x0000001A = .ok .bOwrsp ∧ decode .b 0x00001020 = .ok (.bCrc8 16) ∧ decode .b 0x00001120 = .ok (.bCrc8 17) ∧
  decodeBus 0xCC = .ok .owSkipRom ∧ decodeBus 0x44 = .ok .owConvertT ∧ decodeBus 0xBE = .ok .owReadScratchpad ∧
  decodeBus 0x4E = .ok .owWriteScratchpad ∧
  decode .a 0x00000007 = .error .unknownOpcode ∧ decode .a 0x00000101 = .error .lenNotZero ∧
  decode .a 0x00002001 = .error .reservedBits ∧ decode .b 0x80000020 = .error .reservedBits

/-- R155: exactly which words are illegal on each channel, and that such a word completes with `ILLEGAL_COMMAND` in one
step, without a bus primitive. -/
def Obligations.IllegalWordsComplete : Prop :=
  (∀ w : Word, (∃ r, decode .a w = .error r) ↔
    (w.extractLsb' 0 8 ∉ ([0x01, 0x02, 0x03, 0x04, 0x05, 0x06, 0x08, 0x09, 0x0A, 0x0B, 0x0C, 0x0D] : List Byte) ∨
      w.extractLsb' 13 19 ≠ 0 ∨ w.extractLsb' 8 5 ≠ 0)) ∧
  (∀ w : Word, (∃ r, decode .b w = .error r) ↔
    (w.extractLsb' 0 8 ∉ ([0x10, 0x11, 0x12, 0x13, 0x14, 0x18, 0x19, 0x1A, 0x1B, 0x20] : List Byte) ∨
      w.extractLsb' 13 19 ≠ 0 ∨ (w.extractLsb' 8 5 ≠ 0 ∧ w.extractLsb' 0 8 ≠ 0x20))) ∧
  (∀ (s : State) (e : ExecA) (q : List Agent) (r : Reject),
    s.schedule = .cha :: q → s.a.seq = .exec e → decode .a e.op = .error r →
    step s = .next { s with
      schedule := q
      a := { s.a with regs := { s.a.regs with done := true, err := .illegalCommand }, seq := .idle } }) ∧
  (∀ (s : State) (e : ExecB) (q : List Agent) (r : Reject),
    s.schedule = .chb :: q → s.b.seq = .exec e → decode .b e.op = .error r →
    step s = .next { s with
      schedule := q
      b := { s.b with regs := { s.b.regs with done := true, err := .illegalCommand }, seq := .idle } })

/-- R156: each row of the opcode table selects, by its match and mask, exactly the words that decode to its command. -/
def Obligations.DecodeAgreesWithTable : Prop :=
  ∀ (ch : Channel) (w : Word) (i : Instr),
    decode ch w = .ok i ↔
      (∃ r ∈ opcodeTable, r.mnemonic = i.mnemonic ∧ r.matchesWord (.channel ch) w = true) ∧
      i.lenOperand = (w.extractLsb' 8 5).toNat

/-- Decoding and encoding agree both ways, for every instruction at its place: a word decodes to `i` exactly when `i` is
well-formed, belongs there, and is encoded as that word. So no bit of a word is dropped and no word has two meanings. -/
def Obligations.DecodeEncodeAgree : Prop :=
  (∀ (ch : Channel) (w : Word) (i : Instr),
    decode ch w = .ok i ↔ i.wellFormed = true ∧ i.place = .channel ch ∧ encode i = w) ∧
  (∀ (v : Byte) (i : Instr),
    decodeBus v = .ok i ↔ i.wellFormed = true ∧ i.place = .bus ∧ encode i = v.setWidth 32) ∧
  (∀ i : Instr, i.wellFormed = true → decodeTableWord i.place.nbits (encode i).toNat = some i)

/-- R50, R51: a channel's turn is one step of the instruction its accepted word decodes to; the step around it only
takes the turn off the schedule. -/
def Obligations.StepRunsInstruction : Prop :=
  (∀ (s : State) (e : ExecA) (q : List Agent) (i : Instr),
    s.schedule = .cha :: q → s.a.seq = .exec e → decode .a e.op = .ok i →
    step s = exec i { s with schedule := q }) ∧
  (∀ (s : State) (e : ExecB) (q : List Agent) (i : Instr),
    s.schedule = .chb :: q → s.b.seq = .exec e → decode .b e.op = .ok i → (∀ v, nextB i e ≠ some (.bus v)) →
    step s = exec i { s with schedule := q })

/-- R170: where a channel-B command sends a single-wire command byte, the turn runs that byte's instruction, and running
it is what the command itself does there. (That the byte runs as an instruction of its own is log 13.) -/
def Obligations.BusByteRunsAsInstruction : Prop :=
  ∀ (s : State) (e : ExecB) (q : List Agent) (i : Instr) (v : Byte),
    s.schedule = .chb :: q → s.b.seq = .exec e → decode .b e.op = .ok i → nextB i e = some (.bus v) →
    v ∈ ([0xCC, 0x44, 0xBE, 0x4E] : List Byte) ∧
    ∃ j, decodeBus v = .ok j ∧ step s = exec j { s with schedule := q } ∧
      exec j { s with schedule := q } = exec i { s with schedule := q }

/-- No instruction stops the machine; a step that does not answer a next state is a host turn. -/
def Obligations.OnlyHostTurnsStop : Prop :=
  (∀ (i : Instr) (s : State), ∃ t, exec i s = .next t) ∧
  (∀ (s : State) (r : Fault), step s = .fault r → ∃ q, s.schedule = .host :: q) ∧
  (∀ (s : State) (r : Refusal), step s = .refused r → ∃ q, s.schedule = .host :: q)

/-! ### Channel A: the bus commands -/

/-- R200, R201: `ID`, answered with one byte, completes with its class and the byte, and changes nothing else. -/
def Obligations.IdCompletes : Prop :=
  ∀ (s : State) (w : Word) (args : Quad) (dev : BitVec 7) (b : Byte) (rest : List I2cAnswer),
    s.a.seq = .exec ⟨w, args, dev, .prim 0, []⟩ → s.i2c = .ok [b] :: rest →
    ∃ s1, exec .aId s = .next s1 ∧
      exec .aId s1 = .next (s.endA
        { s.a.regs with
          done := true, err := .ok
          res := { s.a.regs.res with
            r0 := if b = 0x60 then 0 else if b = 0x58 ∨ b = 0x56 then 1 else 2
            r1 := b.setWidth 32 } }
        s.a.cal (s.a.trace ++ [.memRead dev 0xD0 1 (.ok [b])]) rest)

/-- R210: `SRST`, its write acknowledged, completes and clears `CAL_VALID`; the bank keeps its contents. -/
def Obligations.SrstCompletes : Prop :=
  ∀ (s : State) (w : Word) (args : Quad) (dev : BitVec 7) (rest : List I2cAnswer),
    s.a.seq = .exec ⟨w, args, dev, .prim 0, []⟩ → s.i2c = .ok [] :: rest →
    ∃ s1, exec .aSrst s = .next s1 ∧
      exec .aSrst s1 = .next (s.endA { s.a.regs with done := true, err := .ok, valid := false }
        s.a.cal (s.a.trace ++ [.memWrite dev 0xE0 [0xB6] (.ok [])]) rest)

/-- R220, R221: `LDCAL` makes its three reads, fills the bank and sets `CAL_VALID`; every coefficient as a number. -/
def Obligations.LdcalCompletes : Prop :=
  ∀ (s : State) (w : Word) (args : Quad) (dev : BitVec 7) (c a h : List Byte) (rest : List I2cAnswer),
    s.a.seq = .exec ⟨w, args, dev, .prim 0, []⟩ → s.a.regs.valid = false →
    c.length = 24 → a.length = 1 → h.length = 7 → s.i2c = .ok c :: .ok a :: .ok h :: rest →
    ∃ s3 cal, execTimes 3 .aLdcal s = .next s3 ∧
      exec .aLdcal s3 = .next (s.endA { s.a.regs with done := true, err := .ok, valid := true } cal
        (s.a.trace ++ [.memRead dev 0x88 24 (.ok c), .memRead dev 0xA1 1 (.ok a), .memRead dev 0xE1 7 (.ok h)]) rest) ∧
      [cal.t1, cal.t2, cal.t3, cal.p1, cal.p2, cal.p3, cal.p4, cal.p5, cal.p6, cal.p7, cal.p8, cal.p9].map BitVec.toNat =
        (List.range 12).map (fun k => (c.getD (2 * k) 0).toNat + 256 * (c.getD (2 * k + 1) 0).toNat) ∧
      cal.h1 = a.getD 0 0 ∧
      cal.h2.toNat = (h.getD 0 0).toNat + 256 * (h.getD 1 0).toNat ∧
      cal.h3 = h.getD 2 0 ∧
      cal.h4.toInt = (h.getD 3 0).toInt * 16 + ((h.getD 4 0).toNat % 16 : Nat) ∧
      cal.h5.toInt = (h.getD 5 0).toInt * 16 + ((h.getD 4 0).toNat / 16 : Nat) ∧
      cal.h6 = h.getD 6 0

/-- R220, R37: `LDCAL` with a table loaded ends with `CAL_LOCKED`, and a compensation without one with
`INVALID_CALIBRATION`; each in one step, with no bus primitive and nothing else changed. -/
def Obligations.CalibrationGate : Prop :=
  (∀ (s : State) (e : ExecA), s.a.seq = .exec e → e.phase = .prim 0 → s.a.regs.valid = true →
    exec .aLdcal s = .next (s.endA { s.a.regs with done := true, err := .calLocked } s.a.cal s.a.trace s.i2c)) ∧
  (∀ (s : State) (e : ExecA) (i : Instr), s.a.seq = .exec e → e.phase = .prim 0 → s.a.regs.valid = false →
    i ∈ [Instr.aCompt, .aCompp, .aCompp64, .aComph, .aComphf] →
    exec i s = .next (s.endA { s.a.regs with done := true, err := .invalidCalibration } s.a.cal s.a.trace s.i2c))

/-- R231, R232: `CFG` with a valid SensorConfig makes exactly its six transactions in order; what it writes keeps the
bits outside its fields and sets the fields. -/
def Obligations.CfgCompletes : Prop :=
  ∀ (s : State) (w : Word) (args : Quad) (dev : BitVec 7) (r2 r4 r5 : Byte) (rest : List I2cAnswer),
    s.a.seq = .exec ⟨w, args, dev, .prim 0, []⟩ →
    (args.r0.extractLsb' 0 3).toNat ≤ 5 → (args.r0.extractLsb' 3 3).toNat ≤ 5 → (args.r0.extractLsb' 6 3).toNat ≤ 5 →
    (args.r0.extractLsb' 9 3).toNat ≤ 4 → args.r0.extractLsb' 15 2 ≠ 2 →
    s.i2c = .ok [r2] :: .ok [] :: .ok [r4] :: .ok [] :: .ok [r5] :: .ok [] :: rest →
    ∃ s6 w2 w4 w5, execTimes 6 .aCfg s = .next s6 ∧
      exec .aCfg s6 = .next (s.endA { s.a.regs with done := true, err := .ok } s.a.cal
        (s.a.trace ++ [.memRead dev 0xF2 1 (.ok [r2]), .memWrite dev 0xF2 [w2] (.ok []),
          .memRead dev 0xF4 1 (.ok [r4]), .memWrite dev 0xF4 [w4] (.ok []),
          .memRead dev 0xF5 1 (.ok [r5]), .memWrite dev 0xF5 [w5] (.ok [])]) rest) ∧
      w2.extractLsb' 3 5 = r2.extractLsb' 3 5 ∧ w2.extractLsb' 0 3 = args.r0.extractLsb' 6 3 ∧
      w4.extractLsb' 5 3 = args.r0.extractLsb' 0 3 ∧ w4.extractLsb' 2 3 = args.r0.extractLsb' 3 3 ∧
      w4.extractLsb' 0 2 = args.r0.extractLsb' 15 2 ∧
      w5.extractLsb' 0 2 = r5.extractLsb' 0 2 ∧ w5.extractLsb' 2 3 = args.r0.extractLsb' 9 3 ∧
      w5.extractLsb' 5 3 = args.r0.extractLsb' 12 3

/-- R162: an invalid SensorConfig ends `CFG` and `EST` with `ILLEGAL_OPERAND` in their first step, with no bus primitive. -/
def Obligations.InvalidConfigRefused : Prop :=
  ∀ (s : State) (e : ExecA) (i : Instr), s.a.seq = .exec e → e.phase = .prim 0 → i ∈ [Instr.aCfg, .aEst] →
    (5 < (e.args.r0.extractLsb' 0 3).toNat ∨ 5 < (e.args.r0.extractLsb' 3 3).toNat ∨
      5 < (e.args.r0.extractLsb' 6 3).toNat ∨ 4 < (e.args.r0.extractLsb' 9 3).toNat ∨ e.args.r0.extractLsb' 15 2 = 2) →
    exec i s = .next (s.endA { s.a.regs with done := true, err := .illegalOperand } s.a.cal s.a.trace s.i2c)

/-- R240, R241: `STAT`, answered with one byte, completes with the class of its bits 3 and 0, which is never 4. -/
def Obligations.StatCompletes : Prop :=
  ∀ (s : State) (w : Word) (args : Quad) (dev : BitVec 7) (b : Byte) (rest : List I2cAnswer),
    s.a.seq = .exec ⟨w, args, dev, .prim 0, []⟩ → s.i2c = .ok [b] :: rest →
    ∃ s1, exec .aStat s = .next s1 ∧
      exec .aStat s1 = .next (s.endA
        { s.a.regs with
          done := true, err := .ok
          res := { s.a.regs.res with
            r0 := (if b.getLsbD 3 then 1 else 0) + (if b.getLsbD 0 then 2 else 0)
            r1 := b.setWidth 32 } }
        s.a.cal (s.a.trace ++ [.memRead dev 0xF3 1 (.ok [b])]) rest)

/-- R250, R108: `RDRAW`, answered with eight bytes, completes with the three raw codes, as numbers. -/
def Obligations.RdrawCompletes : Prop :=
  ∀ (s : State) (w : Word) (args : Quad) (dev : BitVec 7) (d0 d1 d2 d3 d4 d5 d6 d7 : Byte) (rest : List I2cAnswer),
    s.a.seq = .exec ⟨w, args, dev, .prim 0, []⟩ → s.i2c = .ok [d0, d1, d2, d3, d4, d5, d6, d7] :: rest →
    ∃ s1 p t h, exec .aRdraw s = .next s1 ∧
      exec .aRdraw s1 = .next (s.endA
        { s.a.regs with done := true, err := .ok, res := { s.a.regs.res with r0 := p, r1 := t, r2 := h } }
        s.a.cal (s.a.trace ++ [.memRead dev 0xF7 8 (.ok [d0, d1, d2, d3, d4, d5, d6, d7])]) rest) ∧
      p.toNat = d0.toNat * 4096 + d1.toNat * 16 + d2.toNat / 16 ∧
      t.toNat = d3.toNat * 4096 + d4.toNat * 16 + d5.toNat / 16 ∧
      h.toNat = d6.toNat * 256 + d7.toNat

/-- R11, R101, R603, R604: whichever transaction of a bus command is answered `AddrNack` or `Fail`, the command makes that
one transaction, with the address, the length and the bytes its rule gives it, raises the code, and completes with nothing
else changed. The bytes `CFG` writes are R230's, from the bytes its reads have brought. -/
def Obligations.BusFailureEndsCommand : Prop :=
  ∀ (s : State) (e : ExecA) (i : Instr) (k : Nat) (ev : EventA) (ans : I2cAnswer) (code : ErrCode) (rest : List I2cAnswer),
    (i, k, ev) ∈ [
      (Instr.aId, 0, EventA.memRead e.dev 0xD0 1 ans),
      (.aSrst, 0, .memWrite e.dev 0xE0 [0xB6] ans),
      (.aLdcal, 0, .memRead e.dev 0x88 24 ans),
      (.aLdcal, 1, .memRead e.dev 0xA1 1 ans),
      (.aLdcal, 2, .memRead e.dev 0xE1 7 ans),
      (.aCfg, 0, .memRead e.dev 0xF2 1 ans),
      (.aCfg, 1, .memWrite e.dev 0xF2
        [(stagedByte e.staged 0 0 &&& 0xF8) ||| (e.args.r0.extractLsb' 6 3).setWidth 8] ans),
      (.aCfg, 2, .memRead e.dev 0xF4 1 ans),
      (.aCfg, 3, .memWrite e.dev 0xF4
        [(e.args.r0.extractLsb' 0 3).setWidth 8 <<< 5 ||| (e.args.r0.extractLsb' 3 3).setWidth 8 <<< 2 |||
          (e.args.r0.extractLsb' 15 2).setWidth 8] ans),
      (.aCfg, 4, .memRead e.dev 0xF5 1 ans),
      (.aCfg, 5, .memWrite e.dev 0xF5
        [(stagedByte e.staged 2 0 &&& 0x03) ||| (e.args.r0.extractLsb' 12 3).setWidth 8 <<< 5 |||
          (e.args.r0.extractLsb' 9 3).setWidth 8 <<< 2] ans),
      (.aStat, 0, .memRead e.dev 0xF3 1 ans),
      (.aRdraw, 0, .memRead e.dev 0xF7 8 ans)] →
    s.a.seq = .exec e → e.phase = .prim k →
    (i = .aLdcal → s.a.regs.valid = false) → (i = .aCfg → (unpackConfig e.args.r0).valid = true) →
    s.i2c = ans :: rest →
    (ans = .addrNack ∧ code = .deviceNotFound) ∨ (ans = .fail ∧ code = .transportError) →
    ∃ s1, exec i s = .next s1 ∧
      exec i s1 = .next (s.endA { s.a.regs with done := true, err := code } s.a.cal (s.a.trace ++ [ev]) rest)

/-- The model's choice (log 3) for R620's oracle that never answers: a channel with no answer to take stays as it is, at
every transaction of channel A and at every sample of channel B. -/
def Obligations.UnansweredBusWaits : Prop :=
  (∀ (i : Instr) (n : Nat),
    (i, n) ∈ [(Instr.aId, 1), (.aSrst, 1), (.aLdcal, 3), (.aCfg, 6), (.aStat, 1), (.aRdraw, 1)] →
    ∀ (s : State) (e : ExecA) (k : Nat),
      s.a.seq = .exec e → e.phase = .prim k → k < n →
      (i = .aLdcal → s.a.regs.valid = false) → (i = .aCfg → (unpackConfig e.args.r0).valid = true) →
      s.i2c = [] → exec i s = .next s) ∧
  (∀ (s : State) (e : ExecB) (i : Instr) (ops : List PrimB),
    s.b.seq = .exec e → nextB i e = some (.slot ops) → ops[e.phase.sub]? = some .sample → s.owline = [] →
    exec i s = .next s)

/-! ### Channel A: the pure commands -/

/-- R300, R301, R302: `COMPT` with a table loaded completes in one step with the temperature and the `t_fine` that R301's
lines give over the integers; the temperature lies in its range. -/
def Obligations.ComptCompletes : Prop :=
  ∀ (s : State) (e : ExecA) (k : Nat), s.a.seq = .exec e → e.phase = .prim k → s.a.regs.valid = true →
    ∃ T tf : Word,
      exec .aCompt s = .next (s.endA
        { s.a.regs with done := true, err := .ok, res := { s.a.regs.res with r0 := T, r1 := tf } }
        s.a.cal s.a.trace s.i2c) ∧
      tf.toInt = Reference.tFine (e.args.r0.toNat % 2 ^ 20 : Nat) s.a.cal.t1.toNat s.a.cal.t2.toInt s.a.cal.t3.toInt ∧
      T.toInt = Reference.temperature tf.toInt ∧ -4000 ≤ T.toInt ∧ T.toInt ≤ 8500

/-- R310, R311: `COMPP` with a table loaded completes in one step with the pressure R311's lines give over the integers. -/
def Obligations.ComppCompletes : Prop :=
  ∀ (s : State) (e : ExecA) (k : Nat), s.a.seq = .exec e → e.phase = .prim k → s.a.regs.valid = true →
    ∃ p : Word,
      exec .aCompp s = .next (s.endA
        { s.a.regs with done := true, err := .ok, res := { s.a.regs.res with r0 := p } } s.a.cal s.a.trace s.i2c) ∧
      (p.toNat : Int) = Reference.pressure32 (e.args.r0.toNat % 2 ^ 20 : Nat) e.args.r1.toInt s.a.cal.pressure

/-- R320, R321: `COMPP64` with a table loaded completes in one step with the pressure R321's lines give over the integers. -/
def Obligations.Compp64Completes : Prop :=
  ∀ (s : State) (e : ExecA) (k : Nat), s.a.seq = .exec e → e.phase = .prim k → s.a.regs.valid = true →
    ∃ p : Word,
      exec .aCompp64 s = .next (s.endA
        { s.a.regs with done := true, err := .ok, res := { s.a.regs.res with r0 := p } } s.a.cal s.a.trace s.i2c) ∧
      (p.toNat : Int) = Reference.pressure64 (e.args.r0.toNat % 2 ^ 20 : Nat) e.args.r1.toInt s.a.cal.pressure

/-- R312 (S4 of 95_test_vectors.md): with `P1` = 0 the scaled denominator is 0 and both pressure commands return
exactly 0, whatever the other operands. -/
def Obligations.PressureZeroGuard : Prop :=
  ∀ (s : State) (e : ExecA) (k : Nat) (i : Instr), s.a.seq = .exec e → e.phase = .prim k → s.a.regs.valid = true →
    s.a.cal.p1 = 0 → i ∈ [Instr.aCompp, .aCompp64] →
    exec i s = .next (s.endA
      { s.a.regs with done := true, err := .ok, res := { s.a.regs.res with r0 := 0 } } s.a.cal s.a.trace s.i2c)

/-- R330, R331: `COMPH` with a table loaded completes in one step with the humidity R331's lines give over the integers,
in its range. -/
def Obligations.ComphCompletes : Prop :=
  ∀ (s : State) (e : ExecA) (k : Nat), s.a.seq = .exec e → e.phase = .prim k → s.a.regs.valid = true →
    ∃ h : Word,
      exec .aComph s = .next (s.endA
        { s.a.regs with done := true, err := .ok, res := { s.a.regs.res with r0 := h } } s.a.cal s.a.trace s.i2c) ∧
      (h.toNat : Int) = Reference.humidity32 (e.args.r0.toNat % 2 ^ 16 : Nat) e.args.r1.toInt s.a.cal.humidity ∧
      h.toNat ≤ 102400

/-- R341, R342: `COMPHF` with a table loaded completes in one step with a binary64, low word first, whose number is what
R342's lines give over the rationals with every operation correctly rounded; it lies in [0, 100]. Its sign bit is theirs
too, so that a zero result is -0.0 where the last product has a negative factor (I21). -/
def Obligations.ComphfCompletes : Prop :=
  ∀ (s : State) (e : ExecA) (k : Nat), s.a.seq = .exec e → e.phase = .prim k → s.a.regs.valid = true →
    ∃ lo hi : Word,
      exec .aComphf s = .next (s.endA
        { s.a.regs with done := true, err := .ok, res := { s.a.regs.res with r0 := lo, r1 := hi } }
        s.a.cal s.a.trace s.i2c) ∧
      (hi ++ lo).extractLsb' 52 11 ≠ 0x7FF ∧
      Reference.binary64Value (hi ++ lo) =
        (Reference.humidityFloat (e.args.r0.toNat % 2 ^ 16 : Nat) e.args.r1.toInt s.a.cal.humidity).val ∧
      (hi ++ lo).getLsbD 63 =
        (Reference.humidityFloat (e.args.r0.toNat % 2 ^ 16 : Nat) e.args.r1.toInt s.a.cal.humidity).neg ∧
      0 ≤ Reference.binary64Value (hi ++ lo) ∧ Reference.binary64Value (hi ++ lo) ≤ 100

/-- R351, R352, R353: `EST` with a valid SensorConfig completes in one step with the four estimates, each its exact
number; it needs no calibration. -/
def Obligations.EstCompletes : Prop :=
  ∀ (s : State) (e : ExecA) (k : Nat), s.a.seq = .exec e → e.phase = .prim k →
    let ot := (e.args.r0.extractLsb' 0 3).toNat
    let op := (e.args.r0.extractLsb' 3 3).toNat
    let oh := (e.args.r0.extractLsb' 6 3).toNat
    let f := (e.args.r0.extractLsb' 9 3).toNat
    let sb := (e.args.r0.extractLsb' 12 3).toNat
    let mode := (e.args.r0.extractLsb' 15 2).toNat
    let m : Nat → Nat := fun code => [0, 1, 2, 4, 8, 16].getD code 0
    let mx := 1250 + (if ot ≠ 0 then 2300 * m ot else 0) + (if op ≠ 0 then 2300 * m op + 575 else 0) +
      (if oh ≠ 0 then 2300 * m oh + 575 else 0)
    let per := if mode = 3 then mx + [500, 62500, 125000, 250000, 500000, 1000000, 10000, 20000].getD sb 0 else mx
    ot ≤ 5 → op ≤ 5 → oh ≤ 5 → f ≤ 4 → mode ≠ 2 →
    ∃ typ max odr iir : Word,
      exec .aEst s = .next (s.endA
        { s.a.regs with done := true, err := .ok, res := ⟨typ, max, odr, iir⟩ } s.a.cal s.a.trace s.i2c) ∧
      typ.toNat = 1000 + (if ot ≠ 0 then 2000 * m ot else 0) + (if op ≠ 0 then 2000 * m op + 500 else 0) +
        (if oh ≠ 0 then 2000 * m oh + 500 else 0) ∧
      max.toNat = mx ∧ odr.toNat = 1000000000 / per ∧ iir.toNat = [1, 2, 5, 11, 22].getD f 0 * per

/-- R340: binary64's rounding is to nearest with ties to even: its result has at most 53 bits and no place below 2^-1074, no
such number is nearer, and where another is as near its significand is even. Each operation, sign of a zero included, is
its exact result so rounded, and `f64` is exact. (Overflow, which R340 excludes, is not in it.) -/
def Obligations.RoundingNearestEven : Prop :=
  (∀ (neg : Bool) (m : Nat) (e : Int),
    let r := F64.round neg m e
    let x : ℚ := (m : ℚ) * (2 : ℚ) ^ e
    let y : ℚ := (r.mant : ℚ) * (2 : ℚ) ^ r.exp
    r.neg = neg ∧ y = Reference.binary64Round x ∧ r.mant ≤ 2 ^ 53 ∧ -1074 ≤ r.exp ∧
    ∀ (m' : Nat) (e' : Int), m' ≤ 2 ^ 53 → -1074 ≤ e' →
      |y - x| ≤ |(m' : ℚ) * (2 : ℚ) ^ e' - x| ∧
      (|y - x| = |(m' : ℚ) * (2 : ℚ) ^ e' - x| → (m' : ℚ) * (2 : ℚ) ^ e' ≠ y → r.mant % 2 = 0)) ∧
  (∀ x y : F64,
    (x.add y).signed = x.signed.add y.signed ∧ (x.sub y).signed = x.signed.sub y.signed ∧
    (x.mul y).signed = x.signed.mul y.signed ∧ (y.mant ≠ 0 → (x.div y).signed = x.signed.div y.signed)) ∧
  (∀ i : Int, (F64.ofInt i).signed = Reference.Signed.ofInt i)

/-! ### Channel B -/

/-- R410, R401: `OWRST` performs the reset slot and completes with the presence it sampled. -/
def Obligations.OwrstCompletes : Prop :=
  ∀ (s : State) (w : Word) (args : Quad) (x : Bool) (rest : List Bool),
    s.b.seq = .exec ⟨w, args, ⟨0, 0⟩, []⟩ → s.owline = x :: rest →
    ∃ s1, execTimes 4 .bOwrst s = .next s1 ∧
      exec .bOwrst s1 = .next (s.endB
        { s.b.regs with done := true, err := .ok, res := { s.b.regs.res with r0 := if x then 0 else 1 } }
        s.b.sp (s.b.time + 960) (s.b.trace ++ resetTrace x) rest)

/-- R420, R402 and R430, R403: `OWWBIT` writes the slot of its bit; `OWRBIT` reads one slot. -/
def Obligations.BitCommandsComplete : Prop :=
  (∀ (s : State) (w : Word) (args : Quad), s.b.seq = .exec ⟨w, args, ⟨0, 0⟩, []⟩ →
    ∃ s1, execTimes 2 .bOwwbit s = .next s1 ∧
      exec .bOwwbit s1 = .next (s.endB { s.b.regs with done := true, err := .ok } s.b.sp (s.b.time + 80)
        (s.b.trace ++ writeBitTrace (args.r0.getLsbD 0)) s.owline)) ∧
  (∀ (s : State) (w : Word) (args : Quad) (x : Bool) (rest : List Bool),
    s.b.seq = .exec ⟨w, args, ⟨0, 0⟩, []⟩ → s.owline = x :: rest →
    ∃ s1, execTimes 4 .bOwrbit s = .next s1 ∧
      exec .bOwrbit s1 = .next (s.endB
        { s.b.regs with done := true, err := .ok, res := { s.b.regs.res with r0 := if x then 1 else 0 } }
        s.b.sp (s.b.time + 60) (s.b.trace ++ readBitTrace x) rest))

/-- R440, R445, R404: `OWWBYTE` writes the eight slots of its byte, `OWRBYTE` reads a byte, least-significant bit first. -/
def Obligations.ByteCommandsComplete : Prop :=
  (∀ (s : State) (w : Word) (args : Quad), s.b.seq = .exec ⟨w, args, ⟨0, 0⟩, []⟩ →
    ∃ s1, execTimes 16 .bOwwbyte s = .next s1 ∧
      exec .bOwwbyte s1 = .next (s.endB { s.b.regs with done := true, err := .ok } s.b.sp (s.b.time + 640)
        (s.b.trace ++ writeByteTrace (args.r0.extractLsb' 0 8)) s.owline)) ∧
  (∀ (s : State) (w : Word) (args : Quad) (v : Byte) (rest : List Bool),
    s.b.seq = .exec ⟨w, args, ⟨0, 0⟩, []⟩ → s.owline = bitsOfByte v ++ rest →
    ∃ s1, execTimes 32 .bOwrbyte s = .next s1 ∧
      exec .bOwrbyte s1 = .next (s.endB
        { s.b.regs with done := true, err := .ok, res := { s.b.regs.res with r0 := v.setWidth 32 } }
        s.b.sp (s.b.time + 480) (s.b.trace ++ readByteTrace v) rest))

/-- R450: `OWINIT`, its reset answered by a presence pulse, sends skip-ROM, write-scratchpad and its three payload bytes
in order, and completes; 4160 µs. -/
def Obligations.OwinitCompletes : Prop :=
  ∀ (s : State) (w : Word) (args : Quad) (rest : List Bool),
    s.b.seq = .exec ⟨w, args, ⟨0, 0⟩, []⟩ → s.owline = false :: rest →
    ∃ s1, execTimes 84 .bOwinit s = .next s1 ∧
      exec .bOwinit s1 = .next (s.endB { s.b.regs with done := true, err := .ok } s.b.sp (s.b.time + 4160)
        (s.b.trace ++ resetTrace false ++ writeByteTrace 0xCC ++ writeByteTrace 0x4E ++
          writeByteTrace (args.r0.extractLsb' 0 8) ++ writeByteTrace (args.r0.extractLsb' 8 8) ++
          writeByteTrace (args.r0.extractLsb' 16 8)) rest)

/-- R450, R460, R470: with no presence pulse, `OWINIT`, `OWCONV` and `OWRSP` end with `DEVICE_NOT_FOUND` right after the
reset slot, before any byte is sent, and commit nothing. -/
def Obligations.AbsentDeviceEndsCommand : Prop :=
  ∀ (i : Instr) (s : State) (w : Word) (args : Quad) (rest : List Bool),
    i ∈ [Instr.bOwinit, .bOwconv, .bOwrsp] → s.b.seq = .exec ⟨w, args, ⟨0, 0⟩, []⟩ → s.owline = true :: rest →
    ∃ s1, execTimes 4 i s = .next s1 ∧
      exec i s1 = .next (s.endB { s.b.regs with done := true, err := .deviceNotFound } s.b.sp (s.b.time + 960)
        (s.b.trace ++ resetTrace true) rest)

/-- R460: an `OWCONV` whose polls read 0 `k` times and then 1 (`k` below 750) completes in 36 + 5 (k + 1) steps with
the number of polls; the exact trace and line time. -/
def Obligations.OwconvEndsAtPoll : Prop :=
  ∀ (s : State) (w : Word) (args : Quad) (k : Nat) (rest : List Bool),
    k < 750 → s.b.seq = .exec ⟨w, args, ⟨0, 0⟩, []⟩ → s.owline = false :: (List.replicate k false ++ true :: rest) →
    ∃ s1, execTimes (40 + 5 * k) .bOwconv s = .next s1 ∧
      exec .bOwconv s1 = .next (s.endB
        { s.b.regs with done := true, err := .ok, res := { s.b.regs.res with r0 := BitVec.ofNat 32 (k + 1) } }
        s.b.sp (s.b.time + 1240 + 1060 * (k + 1))
        (s.b.trace ++ resetTrace false ++ writeByteTrace 0xCC ++ writeByteTrace 0x44 ++
          (List.replicate k busyPollTrace).flatten ++ readBitTrace true) rest)

/-- R461, R460: whatever the line answers, `OWCONV` ends within 750 polls, 3787 steps and 797240 µs; when all 750 polls
read 0 it takes exactly those and ends with `CONVERSION_TIMEOUT`. -/
def Obligations.OwconvBound : Prop :=
  (∀ (s : State) (w : Word) (args : Quad), s.b.seq = .exec ⟨w, args, ⟨0, 0⟩, []⟩ → 751 ≤ s.owline.length →
    ∃ n s1 t, n ≤ 3786 ∧ execTimes n .bOwconv s = .next s1 ∧ exec .bOwconv s1 = .next t ∧ t.b.seq = .idle ∧
      sampleCount t.b.trace ≤ sampleCount s.b.trace + 1 + 750 ∧ t.b.time ≤ s.b.time + 797240) ∧
  (∀ (s : State) (w : Word) (args : Quad) (rest : List Bool),
    s.b.seq = .exec ⟨w, args, ⟨0, 0⟩, []⟩ → s.owline = false :: (List.replicate 750 false ++ rest) →
    ∃ s1, execTimes 3786 .bOwconv s = .next s1 ∧
      exec .bOwconv s1 = .next (s.endB { s.b.regs with done := true, err := .conversionTimeout } s.b.sp
        (s.b.time + 797240)
        (s.b.trace ++ resetTrace false ++ writeByteTrace 0xCC ++ writeByteTrace 0x44 ++
          (List.replicate 750 busyPollTrace).flatten) rest))

/-- R470, R47, R481: an `OWRSP` that reads nine bytes with a right CRC stores them in the scratchpad bank, sets
`SP_VALID`, and returns the temperature code and its exact sixteenth as a binary64, +0.0 for code 0. -/
def Obligations.OwrspAccepts : Prop :=
  ∀ (s : State) (w : Word) (args : Quad) (d : List Byte) (rest : List Bool),
    s.b.seq = .exec ⟨w, args, ⟨0, 0⟩, []⟩ → d.length = 9 → crc8 (d.take 8) = d.getD 8 0 →
    s.owline = false :: (d.flatMap bitsOfByte ++ rest) →
    ∃ s1 r0 r1 r2 sp, execTimes 324 .bOwrsp s = .next s1 ∧
      exec .bOwrsp s1 = .next (s.endB
        { s.b.regs with
          done := true, err := .ok, valid := true, res := { s.b.regs.res with r0 := r0, r1 := r1, r2 := r2 } }
        sp (s.b.time + 6560)
        (s.b.trace ++ resetTrace false ++ writeByteTrace 0xCC ++ writeByteTrace 0xBE ++ d.flatMap readByteTrace) rest) ∧
      sp.bytes = d ∧
      r0.toInt = ((d.getD 1 0).toInt * 256 + (d.getD 0 0).toNat) ∧
      Reference.binary64Value (r2 ++ r1) = (r0.toInt : ℚ) / 16 ∧ (r2 ++ r1).getLsbD 63 = decide (r0.toInt < 0)

/-- R470, R38: an `OWRSP` that reads nine bytes with a wrong CRC ends with `CRC_MISMATCH` after the ninth byte, and the
results, the scratchpad bank and `SP_VALID` keep their values. -/
def Obligations.OwrspRejects : Prop :=
  ∀ (s : State) (w : Word) (args : Quad) (d : List Byte) (rest : List Bool),
    s.b.seq = .exec ⟨w, args, ⟨0, 0⟩, []⟩ → d.length = 9 → crc8 (d.take 8) ≠ d.getD 8 0 →
    s.owline = false :: (d.flatMap bitsOfByte ++ rest) →
    ∃ s1, execTimes 324 .bOwrsp s = .next s1 ∧
      exec .bOwrsp s1 = .next (s.endB { s.b.regs with done := true, err := .crcMismatch } s.b.sp (s.b.time + 6560)
        (s.b.trace ++ resetTrace false ++ writeByteTrace 0xCC ++ writeByteTrace 0xBE ++ d.flatMap readByteTrace) rest)

/-- R480, R481: `OWDEC` completes in one step with the signed code of its two bytes and its exact sixteenth,
+0.0 for code 0. -/
def Obligations.OwdecCompletes : Prop :=
  ∀ (s : State) (e : ExecB), s.b.seq = .exec e →
    ∃ r0 r1 r2 : Word,
      exec .bOwdec s = .next { s with b := { s.b with
        regs := { s.b.regs with done := true, err := .ok, res := { s.b.regs.res with r0 := r0, r1 := r1, r2 := r2 } }
        seq := .idle } } ∧
      r0.toInt = (e.args.r0.extractLsb' 8 8).toInt * 256 + (e.args.r0.extractLsb' 0 8).toNat ∧
      Reference.binary64Value (r2 ++ r1) = (r0.toInt : ℚ) / 16 ∧ (r2 ++ r1).getLsbD 63 = decide (r0.toInt < 0)

/-- R510, R163: `CRC8` over at most 16 bytes completes in one step with their CRC8, byte `k` being bits `8k+7` to `8k` of
the four arguments together; a larger `LEN` ends with `ILLEGAL_OPERAND`. -/
def Obligations.CrcEightCompletes : Prop :=
  ∀ (s : State) (e : ExecB) (len : Nat), s.b.seq = .exec e →
    (len ≤ 16 → exec (.bCrc8 len) s = .next { s with b := { s.b with
      regs := { s.b.regs with
        done := true, err := .ok
        res := { s.b.regs.res with
          r0 := (crc8 ((List.range len).map fun k =>
            (e.args.r3 ++ (e.args.r2 ++ (e.args.r1 ++ e.args.r0))).extractLsb' (8 * k) 8)).setWidth 32 } }
      seq := .idle } }) ∧
    (16 < len → exec (.bCrc8 len) s = .next { s with b := { s.b with
      regs := { s.b.regs with done := true, err := .illegalOperand }, seq := .idle } })

/-- R500, R502: the CRC8 of a byte sequence is the remainder of its bits, in the order sent, divided as a polynomial by
x^8 + x^5 + x^4 + 1; the register holds it reflected. -/
def Obligations.CrcEightIsPolynomialRemainder : Prop :=
  ∀ (d : List Byte) (k : Nat), k < 8 →
    (crc8 d).getLsbD k = (Reference.crcRemainder (d.flatMap bitsOfByte)).testBit (7 - k)

/-- R170, R404: each single-wire command byte is sent in sixteen primitives, the eight write slots of its bits, least
significant first, and the command that sends it goes on with its next line; nothing else changes. That the byte runs as an
instruction of its own, from any line at its first primitive, is the model's choice, log 13. -/
def Obligations.BusCommandsSendTheirByte : Prop :=
  ∀ (i : Instr) (v : Byte) (s : State) (e : ExecB),
    (i, v) ∈ [(Instr.owSkipRom, (0xCC : Byte)), (.owConvertT, 0x44), (.owReadScratchpad, 0xBE), (.owWriteScratchpad, 0x4E)] →
    s.b.seq = .exec e → e.phase.sub = 0 →
    ∃ s1, execTimes 15 i s = .next s1 ∧
      exec i s1 = .next { s with b := { s.b with
        drive := .released, time := s.b.time + 640, trace := s.b.trace ++ writeByteTrace v
        seq := .exec { e with phase := ⟨e.phase.line + 1, 0⟩ } } }

/-- R501: for nine bytes, the CRC8 of the first eight equals the ninth exactly when the CRC8 of all nine is 0. -/
def Obligations.ScratchpadValidIffCrcZero : Prop :=
  ∀ d : List Byte, d.length = 9 →
    (validScratchpad d = true ↔ crc8 (d.take 8) = d.getD 8 0) ∧ (crc8 (d.take 8) = d.getD 8 0 ↔ crc8 d = 0x00)

/-- R502: flipping any one of the 72 bits of a valid scratchpad makes it invalid; the known valid sequence passes. -/
def Obligations.SingleBitFlipsRejected : Prop :=
  (∀ (d : List Byte) (k : Nat), d.length = 9 → k < 72 → validScratchpad d = true →
    validScratchpad (flipBit k d) = false) ∧
  validScratchpad [0x50, 0x05, 0x4B, 0x46, 0x7F, 0xFF, 0x0C, 0x10, 0x1C] = true

/-! ### The whole machine -/

/-- R38, R47: every step, from any state, keeps that `SP_VALID` = 1 means a scratchpad bank whose CRC8 is right. -/
def Obligations.ScratchpadBankStaysValid : Prop := KeptByStep ScratchpadValid

/-- R57: every step keeps `LINE` as its slots leave it, so that it is released whenever channel B is idle. -/
def Obligations.LineReleasedWhenIdle : Prop := KeptByStep LineQuiet

/-- R36: every step keeps that an idle channel with `DONE` = 0 has `ERR`, `LASTOP`, `RES`, `VALID`, `OVR`, its bank
(calibration or scratchpad) and its trace as at reset. -/
def Obligations.FreshUntilFirstCommandKept : Prop := KeptByStep FreshUntilFirstCommand

/-- R602, R41: every step keeps that `ERR` is a code the command of `LASTOP` can raise. -/
def Obligations.CodesFitCommandKept : Prop := KeptByStep CodesFitCommand

/-- R102, R45 and the model's timebase (log 14): every step keeps that channel A has touched only R101's registers, that
`H4` and `H5` are in range, and that the timebase counts the line time of the trace. -/
def Obligations.RecordsKept : Prop :=
  KeptByStep SensorAccessesListed ∧ KeptByStep NibbleCoefficientsInRange ∧ KeptByStep TimebaseCounts

/-- The reset state has every invariant above. Its last clause rests on the timebase's 0 at reset, for which R60 gives no
value: that is the model's choice, log 14. The other clauses rest on R60's values. -/
def Obligations.ResetHasInvariants : Prop :=
  ScratchpadValid State.reset ∧ LineQuiet State.reset ∧ FreshUntilFirstCommand State.reset ∧
  CodesFitCommand State.reset ∧ SensorAccessesListed State.reset ∧ NibbleCoefficientsInRange State.reset ∧
  TimebaseCounts State.reset

/-- R35, R37, R38, R44, R46, R47, R52: what can change the results, the banks and the `VALID` bits is the completion with
`OK` of the commands these rules name; what sets `BUSY` is a word written to that channel's `x_CMD`, and what clears it is
a completion; block reset clears them all; nothing else does. -/
def Obligations.RegistersChangeOnlyAtCompletion : Prop :=
  ∀ s t : State, step s = .next t →
    (t.a.regs.res ≠ s.a.regs.res → resetTurn s ∨ completedA s t) ∧
    (t.a.cal ≠ s.a.cal → resetTurn s ∨ (completedA s t ∧ s.runsA .aLdcal ∧ t.a.regs.valid = true)) ∧
    (t.a.regs.valid ≠ s.a.regs.valid →
      resetTurn s ∨ (completedA s t ∧ ((s.runsA .aLdcal ∧ t.a.regs.valid = true) ∨ (s.runsA .aSrst ∧ t.a.regs.valid = false)))) ∧
    (t.b.regs.res ≠ s.b.regs.res → resetTurn s ∨ completedB s t) ∧
    (t.b.sp ≠ s.b.sp ∨ t.b.regs.valid ≠ s.b.regs.valid →
      resetTurn s ∨ (completedB s t ∧ s.runsB .bOwrsp ∧ t.b.regs.valid = true)) ∧
    (s.a.seq.busy = true → t.a.seq.busy = false →
      resetTurn s ∨ (s.schedule.head? = some .cha ∧ t.a.regs.done = true)) ∧
    (s.b.seq.busy = true → t.b.seq.busy = false →
      resetTurn s ∨ (s.schedule.head? = some .chb ∧ t.b.regs.done = true)) ∧
    (s.a.seq.busy = false → t.a.seq.busy = true →
      s.schedule.head? = some .host ∧ (∃ w, s.host.program.head? = some (.wr 32 0x000 w)) ∧ t.a.regs.done = false) ∧
    (s.b.seq.busy = false → t.b.seq.busy = true →
      s.schedule.head? = some .host ∧ (∃ w, s.host.program.head? = some (.wr 32 0x100 w)) ∧ t.b.regs.done = false)

/-- R5, R609, R616: the two channels share nothing. Each one's turn always answers, and in either order the two turns
lead to the same state. -/
def Obligations.ChannelsCommute : Prop :=
  ∀ s : State, ∃ sA sB t,
    turn .cha s = .next sA ∧ turn .chb s = .next sB ∧ turn .chb sA = .next t ∧ turn .cha sB = .next t ∧
    sA.b = s.b ∧ sA.owline = s.owline ∧ sB.a = s.a ∧ sB.i2c = s.i2c

/-- R620: given the answers it asks for, and turns of its own channel one after another, every command word accepted on
channel A completes within 7 steps, and every one accepted on channel B within 3787, legal or not. -/
def Obligations.EveryCommandCompletes : Prop :=
  (∀ (s : State) (w : Word) (args : Quad) (dev : BitVec 7) (q : List Agent),
    s.a.seq = .exec ⟨w, args, dev, .prim 0, []⟩ → 6 ≤ s.i2c.length → s.schedule = List.replicate 7 .cha ++ q →
    ∃ (n : Nat) (t : State), n ≤ 7 ∧ Host.Core.run Sys2Proof.core n s = .next t ∧ t.a.seq = .idle) ∧
  (∀ (s : State) (w : Word) (args : Quad) (q : List Agent),
    s.b.seq = .exec ⟨w, args, ⟨0, 0⟩, []⟩ → 751 ≤ s.owline.length → s.schedule = List.replicate 3787 .chb ++ q →
    ∃ (n : Nat) (t : State), n ≤ 3787 ∧ Host.Core.run Sys2Proof.core n s = .next t ∧ t.b.seq = .idle)
end

