-- ==== Sys2Proof/Laws/State.lean ====
section
/-! SUPPORT. One lemma per field per update of the state, each true by `rfl`, so that no proof unfolds a record update. -/

namespace Sys2Proof.Machine

/-! ### Acceptance on channel A -/

@[simp] theorem acceptA_b (w : Word) (s : State) : (acceptA w s).b = s.b := rfl
@[simp] theorem acceptA_host (w : Word) (s : State) : (acceptA w s).host = s.host := rfl
@[simp] theorem acceptA_i2c (w : Word) (s : State) : (acceptA w s).i2c = s.i2c := rfl
@[simp] theorem acceptA_owline (w : Word) (s : State) : (acceptA w s).owline = s.owline := rfl
@[simp] theorem acceptA_schedule (w : Word) (s : State) : (acceptA w s).schedule = s.schedule := rfl
@[simp] theorem acceptA_done (w : Word) (s : State) : (acceptA w s).a.regs.done = false := rfl
@[simp] theorem acceptA_valid (w : Word) (s : State) : (acceptA w s).a.regs.valid = s.a.regs.valid := rfl
@[simp] theorem acceptA_ovr (w : Word) (s : State) : (acceptA w s).a.regs.ovr = s.a.regs.ovr := rfl
@[simp] theorem acceptA_err (w : Word) (s : State) : (acceptA w s).a.regs.err = s.a.regs.err := rfl
@[simp] theorem acceptA_lastop (w : Word) (s : State) : (acceptA w s).a.regs.lastop = w.extractLsb' 0 8 := rfl
@[simp] theorem acceptA_arg (w : Word) (s : State) : (acceptA w s).a.regs.arg = s.a.regs.arg := rfl
@[simp] theorem acceptA_res (w : Word) (s : State) : (acceptA w s).a.regs.res = s.a.regs.res := rfl
@[simp] theorem acceptA_a_devaddr (w : Word) (s : State) : (acceptA w s).a.devaddr = s.a.devaddr := rfl
@[simp] theorem acceptA_a_cal (w : Word) (s : State) : (acceptA w s).a.cal = s.a.cal := rfl
@[simp] theorem acceptA_a_seq (w : Word) (s : State) : (acceptA w s).a.seq = .exec ⟨w, s.a.regs.arg, s.a.devaddr, .prim 0, []⟩ := rfl
@[simp] theorem acceptA_a_trace (w : Word) (s : State) : (acceptA w s).a.trace = s.a.trace := rfl

/-! ### Completion with OK on channel A -/

@[simp] theorem completeA_b (c : CommitA) (s : State) : (completeA c s).b = s.b := rfl
@[simp] theorem completeA_host (c : CommitA) (s : State) : (completeA c s).host = s.host := rfl
@[simp] theorem completeA_i2c (c : CommitA) (s : State) : (completeA c s).i2c = s.i2c := rfl
@[simp] theorem completeA_owline (c : CommitA) (s : State) : (completeA c s).owline = s.owline := rfl
@[simp] theorem completeA_schedule (c : CommitA) (s : State) : (completeA c s).schedule = s.schedule := rfl
@[simp] theorem completeA_done (c : CommitA) (s : State) : (completeA c s).a.regs.done = true := rfl
@[simp] theorem completeA_valid (c : CommitA) (s : State) : (completeA c s).a.regs.valid = c.valid.getD s.a.regs.valid := rfl
@[simp] theorem completeA_ovr (c : CommitA) (s : State) : (completeA c s).a.regs.ovr = s.a.regs.ovr := rfl
@[simp] theorem completeA_err (c : CommitA) (s : State) : (completeA c s).a.regs.err = .ok := rfl
@[simp] theorem completeA_lastop (c : CommitA) (s : State) : (completeA c s).a.regs.lastop = s.a.regs.lastop := rfl
@[simp] theorem completeA_arg (c : CommitA) (s : State) : (completeA c s).a.regs.arg = s.a.regs.arg := rfl
@[simp] theorem completeA_res (c : CommitA) (s : State) : (completeA c s).a.regs.res = s.a.regs.res.commit c.res := rfl
@[simp] theorem completeA_a_devaddr (c : CommitA) (s : State) : (completeA c s).a.devaddr = s.a.devaddr := rfl
@[simp] theorem completeA_a_cal (c : CommitA) (s : State) : (completeA c s).a.cal = c.cal.getD s.a.cal := rfl
@[simp] theorem completeA_a_seq (c : CommitA) (s : State) : (completeA c s).a.seq = .idle := rfl
@[simp] theorem completeA_a_trace (c : CommitA) (s : State) : (completeA c s).a.trace = s.a.trace := rfl

/-! ### Raise on channel A -/

@[simp] theorem raiseA_b (code : ErrCode) (s : State) : (raiseA code s).b = s.b := rfl
@[simp] theorem raiseA_host (code : ErrCode) (s : State) : (raiseA code s).host = s.host := rfl
@[simp] theorem raiseA_i2c (code : ErrCode) (s : State) : (raiseA code s).i2c = s.i2c := rfl
@[simp] theorem raiseA_owline (code : ErrCode) (s : State) : (raiseA code s).owline = s.owline := rfl
@[simp] theorem raiseA_schedule (code : ErrCode) (s : State) : (raiseA code s).schedule = s.schedule := rfl
@[simp] theorem raiseA_done (code : ErrCode) (s : State) : (raiseA code s).a.regs.done = true := rfl
@[simp] theorem raiseA_valid (code : ErrCode) (s : State) : (raiseA code s).a.regs.valid = s.a.regs.valid := rfl
@[simp] theorem raiseA_ovr (code : ErrCode) (s : State) : (raiseA code s).a.regs.ovr = s.a.regs.ovr := rfl
@[simp] theorem raiseA_err (code : ErrCode) (s : State) : (raiseA code s).a.regs.err = code := rfl
@[simp] theorem raiseA_lastop (code : ErrCode) (s : State) : (raiseA code s).a.regs.lastop = s.a.regs.lastop := rfl
@[simp] theorem raiseA_arg (code : ErrCode) (s : State) : (raiseA code s).a.regs.arg = s.a.regs.arg := rfl
@[simp] theorem raiseA_res (code : ErrCode) (s : State) : (raiseA code s).a.regs.res = s.a.regs.res := rfl
@[simp] theorem raiseA_a_devaddr (code : ErrCode) (s : State) : (raiseA code s).a.devaddr = s.a.devaddr := rfl
@[simp] theorem raiseA_a_cal (code : ErrCode) (s : State) : (raiseA code s).a.cal = s.a.cal := rfl
@[simp] theorem raiseA_a_seq (code : ErrCode) (s : State) : (raiseA code s).a.seq = .idle := rfl
@[simp] theorem raiseA_a_trace (code : ErrCode) (s : State) : (raiseA code s).a.trace = s.a.trace := rfl

/-! ### Acceptance on channel B -/

@[simp] theorem acceptB_a (w : Word) (s : State) : (acceptB w s).a = s.a := rfl
@[simp] theorem acceptB_host (w : Word) (s : State) : (acceptB w s).host = s.host := rfl
@[simp] theorem acceptB_i2c (w : Word) (s : State) : (acceptB w s).i2c = s.i2c := rfl
@[simp] theorem acceptB_owline (w : Word) (s : State) : (acceptB w s).owline = s.owline := rfl
@[simp] theorem acceptB_schedule (w : Word) (s : State) : (acceptB w s).schedule = s.schedule := rfl
@[simp] theorem acceptB_done (w : Word) (s : State) : (acceptB w s).b.regs.done = false := rfl
@[simp] theorem acceptB_valid (w : Word) (s : State) : (acceptB w s).b.regs.valid = s.b.regs.valid := rfl
@[simp] theorem acceptB_ovr (w : Word) (s : State) : (acceptB w s).b.regs.ovr = s.b.regs.ovr := rfl
@[simp] theorem acceptB_err (w : Word) (s : State) : (acceptB w s).b.regs.err = s.b.regs.err := rfl
@[simp] theorem acceptB_lastop (w : Word) (s : State) : (acceptB w s).b.regs.lastop = w.extractLsb' 0 8 := rfl
@[simp] theorem acceptB_arg (w : Word) (s : State) : (acceptB w s).b.regs.arg = s.b.regs.arg := rfl
@[simp] theorem acceptB_res (w : Word) (s : State) : (acceptB w s).b.regs.res = s.b.regs.res := rfl
@[simp] theorem acceptB_b_sp (w : Word) (s : State) : (acceptB w s).b.sp = s.b.sp := rfl
@[simp] theorem acceptB_b_drive (w : Word) (s : State) : (acceptB w s).b.drive = s.b.drive := rfl
@[simp] theorem acceptB_b_time (w : Word) (s : State) : (acceptB w s).b.time = s.b.time := rfl
@[simp] theorem acceptB_b_seq (w : Word) (s : State) : (acceptB w s).b.seq = .exec ⟨w, s.b.regs.arg, ⟨0, 0⟩, []⟩ := rfl
@[simp] theorem acceptB_b_trace (w : Word) (s : State) : (acceptB w s).b.trace = s.b.trace := rfl

/-! ### Completion with OK on channel B -/

@[simp] theorem completeB_a (c : CommitB) (s : State) : (completeB c s).a = s.a := rfl
@[simp] theorem completeB_host (c : CommitB) (s : State) : (completeB c s).host = s.host := rfl
@[simp] theorem completeB_i2c (c : CommitB) (s : State) : (completeB c s).i2c = s.i2c := rfl
@[simp] theorem completeB_owline (c : CommitB) (s : State) : (completeB c s).owline = s.owline := rfl
@[simp] theorem completeB_schedule (c : CommitB) (s : State) : (completeB c s).schedule = s.schedule := rfl
@[simp] theorem completeB_done (c : CommitB) (s : State) : (completeB c s).b.regs.done = true := rfl
@[simp] theorem completeB_valid (c : CommitB) (s : State) : (completeB c s).b.regs.valid = (if c.sp.isSome then true else s.b.regs.valid) := rfl
@[simp] theorem completeB_ovr (c : CommitB) (s : State) : (completeB c s).b.regs.ovr = s.b.regs.ovr := rfl
@[simp] theorem completeB_err (c : CommitB) (s : State) : (completeB c s).b.regs.err = .ok := rfl
@[simp] theorem completeB_lastop (c : CommitB) (s : State) : (completeB c s).b.regs.lastop = s.b.regs.lastop := rfl
@[simp] theorem completeB_arg (c : CommitB) (s : State) : (completeB c s).b.regs.arg = s.b.regs.arg := rfl
@[simp] theorem completeB_res (c : CommitB) (s : State) : (completeB c s).b.regs.res = s.b.regs.res.commit c.res := rfl
@[simp] theorem completeB_b_sp (c : CommitB) (s : State) : (completeB c s).b.sp = c.sp.getD s.b.sp := rfl
@[simp] theorem completeB_b_drive (c : CommitB) (s : State) : (completeB c s).b.drive = s.b.drive := rfl
@[simp] theorem completeB_b_time (c : CommitB) (s : State) : (completeB c s).b.time = s.b.time := rfl
@[simp] theorem completeB_b_seq (c : CommitB) (s : State) : (completeB c s).b.seq = .idle := rfl
@[simp] theorem completeB_b_trace (c : CommitB) (s : State) : (completeB c s).b.trace = s.b.trace := rfl

/-! ### Raise on channel B -/

@[simp] theorem raiseB_a (code : ErrCode) (s : State) : (raiseB code s).a = s.a := rfl
@[simp] theorem raiseB_host (code : ErrCode) (s : State) : (raiseB code s).host = s.host := rfl
@[simp] theorem raiseB_i2c (code : ErrCode) (s : State) : (raiseB code s).i2c = s.i2c := rfl
@[simp] theorem raiseB_owline (code : ErrCode) (s : State) : (raiseB code s).owline = s.owline := rfl
@[simp] theorem raiseB_schedule (code : ErrCode) (s : State) : (raiseB code s).schedule = s.schedule := rfl
@[simp] theorem raiseB_done (code : ErrCode) (s : State) : (raiseB code s).b.regs.done = true := rfl
@[simp] theorem raiseB_valid (code : ErrCode) (s : State) : (raiseB code s).b.regs.valid = s.b.regs.valid := rfl
@[simp] theorem raiseB_ovr (code : ErrCode) (s : State) : (raiseB code s).b.regs.ovr = s.b.regs.ovr := rfl
@[simp] theorem raiseB_err (code : ErrCode) (s : State) : (raiseB code s).b.regs.err = code := rfl
@[simp] theorem raiseB_lastop (code : ErrCode) (s : State) : (raiseB code s).b.regs.lastop = s.b.regs.lastop := rfl
@[simp] theorem raiseB_arg (code : ErrCode) (s : State) : (raiseB code s).b.regs.arg = s.b.regs.arg := rfl
@[simp] theorem raiseB_res (code : ErrCode) (s : State) : (raiseB code s).b.regs.res = s.b.regs.res := rfl
@[simp] theorem raiseB_b_sp (code : ErrCode) (s : State) : (raiseB code s).b.sp = s.b.sp := rfl
@[simp] theorem raiseB_b_drive (code : ErrCode) (s : State) : (raiseB code s).b.drive = s.b.drive := rfl
@[simp] theorem raiseB_b_time (code : ErrCode) (s : State) : (raiseB code s).b.time = s.b.time := rfl
@[simp] theorem raiseB_b_seq (code : ErrCode) (s : State) : (raiseB code s).b.seq = .idle := rfl
@[simp] theorem raiseB_b_trace (code : ErrCode) (s : State) : (raiseB code s).b.trace = s.b.trace := rfl

/-! ### The states a completion leaves -/

@[simp] theorem endA_b (s : State) (regs : Regs) (cal : Cal) (trace : List EventA) (i2c : List I2cAnswer) : (s.endA regs cal trace i2c).b = s.b := rfl
@[simp] theorem endA_host (s : State) (regs : Regs) (cal : Cal) (trace : List EventA) (i2c : List I2cAnswer) : (s.endA regs cal trace i2c).host = s.host := rfl
@[simp] theorem endA_owline (s : State) (regs : Regs) (cal : Cal) (trace : List EventA) (i2c : List I2cAnswer) : (s.endA regs cal trace i2c).owline = s.owline := rfl
@[simp] theorem endA_schedule (s : State) (regs : Regs) (cal : Cal) (trace : List EventA) (i2c : List I2cAnswer) : (s.endA regs cal trace i2c).schedule = s.schedule := rfl
@[simp] theorem endA_i2c (s : State) (regs : Regs) (cal : Cal) (trace : List EventA) (i2c : List I2cAnswer) : (s.endA regs cal trace i2c).i2c = i2c := rfl
@[simp] theorem endA_a_regs (s : State) (regs : Regs) (cal : Cal) (trace : List EventA) (i2c : List I2cAnswer) : (s.endA regs cal trace i2c).a.regs = regs := rfl
@[simp] theorem endA_a_cal (s : State) (regs : Regs) (cal : Cal) (trace : List EventA) (i2c : List I2cAnswer) : (s.endA regs cal trace i2c).a.cal = cal := rfl
@[simp] theorem endA_a_trace (s : State) (regs : Regs) (cal : Cal) (trace : List EventA) (i2c : List I2cAnswer) : (s.endA regs cal trace i2c).a.trace = trace := rfl
@[simp] theorem endA_a_seq (s : State) (regs : Regs) (cal : Cal) (trace : List EventA) (i2c : List I2cAnswer) : (s.endA regs cal trace i2c).a.seq = .idle := rfl
@[simp] theorem endA_a_devaddr (s : State) (regs : Regs) (cal : Cal) (trace : List EventA) (i2c : List I2cAnswer) : (s.endA regs cal trace i2c).a.devaddr = s.a.devaddr := rfl
@[simp] theorem endB_a (s : State) (regs : Regs) (sp : Scratchpad) (time : Nat) (trace : List EventB) (owline : List Bool) : (s.endB regs sp time trace owline).a = s.a := rfl
@[simp] theorem endB_host (s : State) (regs : Regs) (sp : Scratchpad) (time : Nat) (trace : List EventB) (owline : List Bool) : (s.endB regs sp time trace owline).host = s.host := rfl
@[simp] theorem endB_i2c (s : State) (regs : Regs) (sp : Scratchpad) (time : Nat) (trace : List EventB) (owline : List Bool) : (s.endB regs sp time trace owline).i2c = s.i2c := rfl
@[simp] theorem endB_schedule (s : State) (regs : Regs) (sp : Scratchpad) (time : Nat) (trace : List EventB) (owline : List Bool) : (s.endB regs sp time trace owline).schedule = s.schedule := rfl
@[simp] theorem endB_owline (s : State) (regs : Regs) (sp : Scratchpad) (time : Nat) (trace : List EventB) (owline : List Bool) : (s.endB regs sp time trace owline).owline = owline := rfl
@[simp] theorem endB_b_regs (s : State) (regs : Regs) (sp : Scratchpad) (time : Nat) (trace : List EventB) (owline : List Bool) : (s.endB regs sp time trace owline).b.regs = regs := rfl
@[simp] theorem endB_b_sp (s : State) (regs : Regs) (sp : Scratchpad) (time : Nat) (trace : List EventB) (owline : List Bool) : (s.endB regs sp time trace owline).b.sp = sp := rfl
@[simp] theorem endB_b_time (s : State) (regs : Regs) (sp : Scratchpad) (time : Nat) (trace : List EventB) (owline : List Bool) : (s.endB regs sp time trace owline).b.time = time := rfl
@[simp] theorem endB_b_trace (s : State) (regs : Regs) (sp : Scratchpad) (time : Nat) (trace : List EventB) (owline : List Bool) : (s.endB regs sp time trace owline).b.trace = trace := rfl
@[simp] theorem endB_b_seq (s : State) (regs : Regs) (sp : Scratchpad) (time : Nat) (trace : List EventB) (owline : List Bool) : (s.endB regs sp time trace owline).b.seq = .idle := rfl
@[simp] theorem endB_b_drive (s : State) (regs : Regs) (sp : Scratchpad) (time : Nat) (trace : List EventB) (owline : List Bool) : (s.endB regs sp time trace owline).b.drive = .released := rfl

/-! ### Block reset and the host's own updates -/

@[simp] theorem blockReset_a (s : State) : (blockReset s).a = .reset := rfl
@[simp] theorem blockReset_b (s : State) : (blockReset s).b = .reset := rfl
@[simp] theorem blockReset_host (s : State) : (blockReset s).host = s.host := rfl
@[simp] theorem blockReset_i2c (s : State) : (blockReset s).i2c = s.i2c := rfl
@[simp] theorem blockReset_owline (s : State) : (blockReset s).owline = s.owline := rfl
@[simp] theorem blockReset_schedule (s : State) : (blockReset s).schedule = s.schedule := rfl
@[simp] theorem hostAt_a (s : State) (p : List HostStmt) : (s.hostAt p).a = s.a := rfl
@[simp] theorem hostSees_a (s : State) (o : Nat) (v : Word) : (s.hostSees o v).a = s.a := rfl
@[simp] theorem hostAt_b (s : State) (p : List HostStmt) : (s.hostAt p).b = s.b := rfl
@[simp] theorem hostSees_b (s : State) (o : Nat) (v : Word) : (s.hostSees o v).b = s.b := rfl
@[simp] theorem hostAt_i2c (s : State) (p : List HostStmt) : (s.hostAt p).i2c = s.i2c := rfl
@[simp] theorem hostSees_i2c (s : State) (o : Nat) (v : Word) : (s.hostSees o v).i2c = s.i2c := rfl
@[simp] theorem hostAt_owline (s : State) (p : List HostStmt) : (s.hostAt p).owline = s.owline := rfl
@[simp] theorem hostSees_owline (s : State) (o : Nat) (v : Word) : (s.hostSees o v).owline = s.owline := rfl
@[simp] theorem hostAt_schedule (s : State) (p : List HostStmt) : (s.hostAt p).schedule = s.schedule := rfl
@[simp] theorem hostSees_schedule (s : State) (o : Nat) (v : Word) : (s.hostSees o v).schedule = s.schedule := rfl
@[simp] theorem hostAt_program (s : State) (p : List HostStmt) : (s.hostAt p).host.program = p := rfl
@[simp] theorem hostAt_observed (s : State) (p : List HostStmt) : (s.hostAt p).host.observed = s.host.observed := rfl
@[simp] theorem hostSees_program (s : State) (o : Nat) (v : Word) : (s.hostSees o v).host.program = s.host.program := rfl
@[simp] theorem hostSees_observed (s : State) (o : Nat) (v : Word) : (s.hostSees o v).host.observed = s.host.observed ++ [(o, v)] := rfl

/-! ### Positions -/

@[simp] theorem answered_op (e : ExecA) (k : Nat) (st : List (List Byte)) (ans : I2cAnswer) :
    (e.answered k st ans).op = e.op := by
  cases ans <;> rfl

@[simp] theorem answered_args (e : ExecA) (k : Nat) (st : List (List Byte)) (ans : I2cAnswer) :
    (e.answered k st ans).args = e.args := by
  cases ans <;> rfl

@[simp] theorem answered_dev (e : ExecA) (k : Nat) (st : List (List Byte)) (ans : I2cAnswer) :
    (e.answered k st ans).dev = e.dev := by
  cases ans <;> rfl

end Sys2Proof.Machine
end

