-- ==== Sys2Proof/Laws/Ops.lean ====
section
/-! SUPPORT. One lemma per shared operation that says everything it can do. -/

namespace Sys2Proof.Machine

/-! ### The window -/

theorem quad_get_set_same (q : Quad) (i : Fin 4) (v : Word) : (q.set i v).get i = v := by
  fin_cases i <;> rfl

theorem quad_get_set_other (q : Quad) (i j : Fin 4) (v : Word) (h : j ≠ i) : (q.set i v).get j = q.get j := by
  fin_cases i <;> fin_cases j <;> first | rfl | exact absurd rfl h

/-- A host write to `A_CMD` is accepted by an idle channel and dropped with `OVR` by a busy one. -/
theorem writeCmdA_cases (w : Word) (s : State) :
    (s.a.seq = .idle ∧ writeCmdA w s = acceptA w s) ∨
    (∃ e, s.a.seq = .exec e ∧ writeCmdA w s = { s with a := { s.a with regs := { s.a.regs with ovr := true } } }) := by
  unfold writeCmdA
  cases h : s.a.seq with
  | idle => exact .inl ⟨rfl, rfl⟩
  | exec e => exact .inr ⟨e, rfl, rfl⟩

/-- A host write to `B_CMD`, likewise. -/
theorem writeCmdB_cases (w : Word) (s : State) :
    (s.b.seq = .idle ∧ writeCmdB w s = acceptB w s) ∨
    (∃ e, s.b.seq = .exec e ∧ writeCmdB w s = { s with b := { s.b with regs := { s.b.regs with ovr := true } } }) := by
  unfold writeCmdB
  cases h : s.b.seq with
  | idle => exact .inl ⟨rfl, rfl⟩
  | exec e => exact .inr ⟨e, rfl, rfl⟩

/-- Everything a host write to a register can do. -/
theorem writeReg_cases (r : Reg) (v : Word) (s : State) :
    writeReg r v s = s ∨
    (r = .cmd .a ∧ writeReg r v s = writeCmdA v s) ∨
    (r = .cmd .b ∧ writeReg r v s = writeCmdB v s) ∨
    (∃ ch, r = .status ch ∧ writeReg r v s = s.mapRegs (Regs.writeStatus v) ch) ∨
    (r = .ctrl ∧ writeReg r v s = { s with a := { s.a with devaddr := v.extractLsb' 0 7 } }) ∨
    (∃ ch i, r = .arg ch i ∧ writeReg r v s = s.mapRegs (fun x => { x with arg := x.arg.set i v }) ch) := by
  cases r with
  | cmd ch => cases ch with
    | a => exact .inr (.inl ⟨rfl, rfl⟩)
    | b => exact .inr (.inr (.inl ⟨rfl, rfl⟩))
  | status ch => exact .inr (.inr (.inr (.inl ⟨ch, rfl, rfl⟩)))
  | ctrl => exact .inr (.inr (.inr (.inr (.inl ⟨rfl, rfl⟩))))
  | arg ch i => exact .inr (.inr (.inr (.inr (.inr ⟨ch, i, rfl, rfl⟩))))
  | res ch i => exact .inl rfl
  | coef c => exact .inl rfl
  | sp i => exact .inl rfl
  | reserved => exact .inl rfl

/-! ### Channel A -/

/-- A sized answer is a failure or carries exactly the bytes asked for. -/
theorem sized_cases (n : Nat) (ans : I2cAnswer) :
    (∃ bytes, bytes.length = n ∧ ans = .ok bytes ∧ ans.sized n = .ok bytes) ∨
    (ans = .addrNack ∧ ans.sized n = .addrNack) ∨ ans.sized n = .fail := by
  cases ans with
  | ok bytes =>
    by_cases h : bytes.length = n
    · exact .inl ⟨bytes, h, rfl, by simp [I2cAnswer.sized, h]⟩
    · exact .inr (.inr (by simp [I2cAnswer.sized, h]))
  | addrNack => exact .inr (.inl ⟨rfl, rfl⟩)
  | fail => exact .inr (.inr rfl)

/-- Everything `MemRead` can do: wait, or take the answer, record it and move the command on. -/
theorem memRead_cases (e : ExecA) (k : Nat) (addr : Byte) (n : Nat) (s : State) :
    (s.i2c = [] ∧ memRead e k addr n s = s) ∨
    (∃ ans rest, s.i2c = ans :: rest ∧
      memRead e k addr n s = { s with
        i2c := rest
        a := { s.a with
          trace := s.a.trace ++ [.memRead e.dev addr n (ans.sized n)]
          seq := .exec (e.answered k (e.staged ++ [(ans.sized n).bytes]) (ans.sized n)) } }) := by
  unfold memRead
  cases h : s.i2c with
  | nil => exact .inl ⟨rfl, rfl⟩
  | cons ans rest => exact .inr ⟨ans, rest, rfl, rfl⟩

/-- Everything `MemWrite` can do. -/
theorem memWrite_cases (e : ExecA) (k : Nat) (addr : Byte) (bytes : List Byte) (s : State) :
    (s.i2c = [] ∧ memWrite e k addr bytes s = s) ∨
    (∃ ans rest, s.i2c = ans :: rest ∧
      memWrite e k addr bytes s = { s with
        i2c := rest
        a := { s.a with
          trace := s.a.trace ++ [.memWrite e.dev addr bytes (ans.sized 0)]
          seq := .exec (e.answered k e.staged (ans.sized 0)) } }) := by
  unfold memWrite
  cases h : s.i2c with
  | nil => exact .inl ⟨rfl, rfl⟩
  | cons ans rest => exact .inr ⟨ans, rest, rfl, rfl⟩

/-- Everything one step of channel A can do. -/
theorem stepA_cases (next : ExecA → Nat → ActA) (s : State) :
    (s.a.seq = .idle ∧ stepA next s = s) ∨
    (∃ e, s.a.seq = .exec e ∧
      ((∃ code, e.phase = .raised code ∧ stepA next s = raiseA code s) ∨
       (∃ k, e.phase = .prim k ∧
         ((∃ addr n, next e k = .read addr n ∧ stepA next s = memRead e k addr n s) ∨
          (∃ addr bytes, next e k = .write addr bytes ∧ stepA next s = memWrite e k addr bytes s) ∨
          (∃ c, next e k = .done c ∧ stepA next s = completeA c s) ∨
          (∃ code, next e k = .raise code ∧ stepA next s = raiseA code s))))) := by
  unfold stepA
  cases hs : s.a.seq with
  | idle => exact .inl ⟨rfl, rfl⟩
  | exec e =>
    refine .inr ⟨e, rfl, ?_⟩
    cases hp : e.phase with
    | raised code => exact .inl ⟨code, rfl, by simp [hp]⟩
    | prim k =>
      refine .inr ⟨k, rfl, ?_⟩
      cases hn : next e k with
      | read addr n => exact .inl ⟨addr, n, rfl, by simp [hp, hn]⟩
      | write addr bytes => exact .inr (.inl ⟨addr, bytes, rfl, by simp [hp, hn]⟩)
      | done c => exact .inr (.inr (.inl ⟨c, rfl, by simp [hp, hn]⟩))
      | raise code => exact .inr (.inr (.inr ⟨code, rfl, by simp [hp, hn]⟩))

/-- One step of channel A touches nothing of channel B, the host, the line oracle or the schedule. -/
theorem stepA_frame (next : ExecA → Nat → ActA) (s : State) :
    (stepA next s).b = s.b ∧ (stepA next s).host = s.host ∧ (stepA next s).owline = s.owline ∧
    (stepA next s).schedule = s.schedule := by
  rcases stepA_cases next s with ⟨_, h⟩ | ⟨e, _, ⟨c, _, h⟩ | ⟨k, _, ⟨ad, n, _, h⟩ | ⟨ad, bs, _, h⟩ | ⟨c, _, h⟩ | ⟨c, _, h⟩⟩⟩
  · simp [h]
  · simp [h]
  · rcases memRead_cases e k ad n s with ⟨_, h'⟩ | ⟨_, _, _, h'⟩ <;> simp [h, h']
  · rcases memWrite_cases e k ad bs s with ⟨_, h'⟩ | ⟨_, _, _, h'⟩ <;> simp [h, h']
  · simp [h]
  · simp [h]

/-! ### Channel B -/

/-- Everything a primitive of channel B can do to the drive, the timebase, the trace and the staged levels; a sample
with no answer waits. -/
theorem primB_cases (p : PrimB) (e : ExecB) (ph : PhaseB) (s : State) :
    (p = .sample ∧ s.owline = [] ∧ primB p e ph s = s) ∨
    (∃ level rest, p = .sample ∧ s.owline = level :: rest ∧ primB p e ph s = { s with
        owline := rest
        b := { s.b with
          trace := s.b.trace ++ [.sample level]
          seq := .exec { e with phase := ph, staged := e.staged ++ [level] } } }) ∨
    (∃ t, p = .driveLow t ∧ primB p e ph s = { s with b := { s.b with
        drive := .low, time := s.b.time + t, trace := s.b.trace ++ [.driveLow t], seq := .exec { e with phase := ph } } }) ∨
    (∃ t, p = .release t ∧ primB p e ph s = { s with b := { s.b with
        drive := .released, time := s.b.time + t, trace := s.b.trace ++ [.release t], seq := .exec { e with phase := ph } } }) ∨
    (∃ t, p = .wait t ∧ primB p e ph s = { s with b := { s.b with
        time := s.b.time + t, trace := s.b.trace ++ [.wait t], seq := .exec { e with phase := ph } } }) := by
  cases p with
  | driveLow t => exact .inr (.inr (.inl ⟨t, rfl, rfl⟩))
  | release t => exact .inr (.inr (.inr (.inl ⟨t, rfl, rfl⟩)))
  | wait t => exact .inr (.inr (.inr (.inr ⟨t, rfl, rfl⟩)))
  | sample =>
    cases h : s.owline with
    | nil => exact .inl ⟨rfl, rfl, by simp [primB, h]⟩
    | cons level rest => exact .inr (.inl ⟨level, rest, rfl, rfl, by simp [primB, h]⟩)

/-- A slot step performs the primitive of its position, or, past the sequence's end, only moves on. -/
theorem slotStep_cases (ops : List PrimB) (e : ExecB) (s : State) :
    (∃ p, ops[e.phase.sub]? = some p ∧ slotStep ops e s = primB p e (e.phase.advance ops.length) s) ∨
    (ops.length ≤ e.phase.sub ∧
      slotStep ops e s = { s with b := { s.b with seq := .exec { e with phase := e.phase.advance ops.length } } }) := by
  unfold slotStep
  cases h : ops[e.phase.sub]? with
  | none => exact .inr ⟨by simpa using h, rfl⟩
  | some p => exact .inl ⟨p, rfl, rfl⟩

/-- Everything one step of channel B can do. -/
theorem stepB_cases (next : ExecB → ActB) (s : State) :
    (s.b.seq = .idle ∧ stepB next s = s) ∨
    (∃ e, s.b.seq = .exec e ∧
      ((∃ ops, next e = .slot ops ∧ stepB next s = slotStep ops e s) ∨
       (∃ v, next e = .bus v ∧ stepB next s = slotStep (writeByteOps v) e s) ∨
       (∃ c, next e = .done c ∧ stepB next s = completeB c s) ∨
       (∃ code, next e = .raise code ∧ stepB next s = raiseB code s))) := by
  unfold stepB sendBusByte
  cases hs : s.b.seq with
  | idle => exact .inl ⟨rfl, rfl⟩
  | exec e =>
    refine .inr ⟨e, rfl, ?_⟩
    cases hn : next e with
    | slot ops => exact .inl ⟨ops, rfl, by simp [hn]⟩
    | bus v => exact .inr (.inl ⟨v, rfl, by simp [hn]⟩)
    | done c => exact .inr (.inr (.inl ⟨c, rfl, by simp [hn]⟩))
    | raise code => exact .inr (.inr (.inr ⟨code, rfl, by simp [hn]⟩))

/-- A slot step touches nothing of channel A, the host, the bus oracle or the schedule. -/
theorem slotStep_frame (ops : List PrimB) (e : ExecB) (s : State) :
    (slotStep ops e s).a = s.a ∧ (slotStep ops e s).host = s.host ∧ (slotStep ops e s).i2c = s.i2c ∧
    (slotStep ops e s).schedule = s.schedule := by
  rcases slotStep_cases ops e s with ⟨p, _, h⟩ | ⟨_, h⟩
  · rcases primB_cases p e (e.phase.advance ops.length) s with
      ⟨_, _, h'⟩ | ⟨_, _, _, _, h'⟩ | ⟨_, _, h'⟩ | ⟨_, _, h'⟩ | ⟨_, _, h'⟩ <;> simp [h, h']
  · simp [h]

/-- A step of channel B touches nothing of channel A, the host, the bus oracle or the schedule. -/
theorem stepB_frame (next : ExecB → ActB) (s : State) :
    (stepB next s).a = s.a ∧ (stepB next s).host = s.host ∧ (stepB next s).i2c = s.i2c ∧
    (stepB next s).schedule = s.schedule := by
  rcases stepB_cases next s with ⟨_, h⟩ | ⟨e, _, ⟨ops, _, h⟩ | ⟨v, _, h⟩ | ⟨c, _, h⟩ | ⟨c, _, h⟩⟩
  · simp [h]
  · rw [h]
    exact slotStep_frame ops e s
  · rw [h]
    exact slotStep_frame (writeByteOps v) e s
  · simp [h]
  · simp [h]

/-- Sending a single-wire command byte is a slot step of its sixteen primitives. -/
theorem stepBusByte_cases (v : Byte) (s : State) :
    (s.b.seq = .idle ∧ stepBusByte v s = s) ∨
    (∃ e, s.b.seq = .exec e ∧ stepBusByte v s = slotStep (writeByteOps v) e s) := by
  unfold stepBusByte sendBusByte
  cases h : s.b.seq with
  | idle => exact .inl ⟨rfl, rfl⟩
  | exec e => exact .inr ⟨e, rfl, rfl⟩

/-! ### The host and the step -/

/-- A host access answers its effect, or stops by name. -/
theorem hostAccess_cases (width offset : Nat) (t : State) :
    (width = 32 ∧ offset % 4 = 0 ∧ offset < Config.windowSize ∧ hostAccess width offset t = .next t) ∨
    (width ≠ 32 ∧ hostAccess width offset t = .refused (.accessWidth width)) ∨
    (width = 32 ∧ offset % 4 ≠ 0 ∧ hostAccess width offset t = .refused (.accessAlignment offset)) ∨
    (width = 32 ∧ offset % 4 = 0 ∧ Config.windowSize ≤ offset ∧ hostAccess width offset t = .fault (.outsideWindow offset)) := by
  unfold hostAccess
  by_cases h1 : width = 32
  · by_cases h2 : offset % 4 = 0
    · by_cases h3 : Config.windowSize ≤ offset
      · exact .inr (.inr (.inr ⟨h1, h2, h3, by simp [h1, h2, h3]⟩))
      · exact .inl ⟨h1, h2, by omega, by simp [h1, h2, h3]⟩
    · exact .inr (.inr (.inl ⟨h1, h2, by simp [h1, h2]⟩))
  · exact .inr (.inl ⟨h1, by simp [h1]⟩)

/-- Everything a host turn that answers a next state has done: nothing, one write, one read, one poll, or one assertion
that holds. -/
theorem stepHost_next (s t : State) (h : stepHost s = .next t) :
    (s.host.program = [] ∧ t = s) ∨
    (∃ offset v rest, s.host.program = .wr 32 offset v :: rest ∧ offset % 4 = 0 ∧ offset < Config.windowSize ∧
      t = writeWindow offset v (s.hostAt rest)) ∨
    (∃ offset rest, s.host.program = .rd 32 offset :: rest ∧ offset % 4 = 0 ∧ offset < Config.windowSize ∧
      t = (s.hostAt rest).hostSees offset (readWindow offset s)) ∨
    (∃ ch rest, s.host.program = .poll ch :: rest ∧
      t = (s.hostAt (if (s.status ch).getLsbD 0 then .poll ch :: rest else rest)).hostSees (statusOffset ch)
        (s.status ch)) ∨
    (∃ offset v rest, s.host.program = .expect offset v :: rest ∧ s.host.lastRead offset = some v ∧
      t = s.hostAt rest) := by
  unfold stepHost at h
  cases hp : s.host.program with
  | nil =>
    simp only [hp] at h
    exact .inl ⟨rfl, by cases h; rfl⟩
  | cons st rest =>
    simp only [hp] at h
    cases st with
    | wr width offset v =>
      rcases hostAccess_cases width offset (writeWindow offset v (s.hostAt rest)) with
        ⟨rfl, h2, h3, h4⟩ | ⟨_, h4⟩ | ⟨_, _, h4⟩ | ⟨_, _, _, h4⟩ <;> simp only [h4] at h
      · exact .inr (.inl ⟨offset, v, rest, rfl, h2, h3, by cases h; rfl⟩)
      all_goals cases h
    | rd width offset =>
      rcases hostAccess_cases width offset ((s.hostAt rest).hostSees offset (readWindow offset s)) with
        ⟨rfl, h2, h3, h4⟩ | ⟨_, h4⟩ | ⟨_, _, h4⟩ | ⟨_, _, _, h4⟩ <;> simp only [h4] at h
      · exact .inr (.inr (.inl ⟨offset, rest, rfl, h2, h3, by cases h; rfl⟩))
      all_goals cases h
    | poll ch => exact .inr (.inr (.inr (.inl ⟨ch, rest, rfl, by cases h; rfl⟩)))
    | expect offset v =>
      by_cases hv : s.host.lastRead offset = some v
      · simp only [hv, if_true] at h
        exact .inr (.inr (.inr (.inr ⟨offset, v, rest, rfl, hv, by cases h; rfl⟩)))
      · simp only [hv, if_false] at h
        cases h

/-- Every instruction answers a next state. -/
theorem exec_next (i : Instr) (s : State) : ∃ t, exec i s = .next t := by
  cases i <;> exact ⟨_, rfl⟩

/-- A channel-A instruction is a step of channel A, by what it does next. -/
theorem exec_channelA (i : Instr) (h : i.place = .channel .a) (s : State) : ∃ next, exec i s = .next (stepA next s) := by
  cases i <;> first | exact ⟨_, rfl⟩ | cases h

/-- A channel-B instruction is a step of channel B by `nextB`. -/
theorem exec_channelB (i : Instr) (h : i.place = .channel .b) (s : State) :
    ∃ next, (∀ e, nextB i e = some (next e)) ∧ exec i s = .next (stepB next s) := by
  cases i <;> first | exact ⟨_, fun _ => rfl, rfl⟩ | cases h

/-- Everything a step can do: nothing, or the turn at the head of the schedule. -/
theorem step_cases (s : State) :
    (s.schedule = [] ∧ step s = .next s) ∨
    (∃ ag rest, s.schedule = ag :: rest ∧ step s = turn ag { s with schedule := rest }) := by
  unfold step
  cases h : s.schedule with
  | nil => exact .inl ⟨rfl, rfl⟩
  | cons ag rest => exact .inr ⟨ag, rest, rfl, rfl⟩

/-- Everything a turn of channel A can do. -/
theorem turn_cha_cases (s : State) :
    (s.a.seq = .idle ∧ turn .cha s = .next s) ∨
    (∃ e, s.a.seq = .exec e ∧
      ((∃ r, decode .a e.op = .error r ∧ turn .cha s = .next (raiseA .illegalCommand s)) ∨
       (∃ i, decode .a e.op = .ok i ∧ turn .cha s = exec i s))) := by
  unfold turn fetchA runFetched
  cases hs : s.a.seq with
  | idle => exact .inl ⟨rfl, rfl⟩
  | exec e =>
    refine .inr ⟨e, rfl, ?_⟩
    cases hd : decode .a e.op with
    | error r => exact .inl ⟨r, rfl, by simp [hd]⟩
    | ok i => exact .inr ⟨i, rfl, by simp [hd]⟩

/-- Everything a turn of channel B can do. -/
theorem turn_chb_cases (s : State) :
    (s.b.seq = .idle ∧ turn .chb s = .next s) ∨
    (∃ e, s.b.seq = .exec e ∧
      ((∃ r, decode .b e.op = .error r ∧ turn .chb s = .next (raiseB .illegalCommand s)) ∨
       (∃ i, decode .b e.op = .ok i ∧ turn .chb s = exec (currentB i e) s))) := by
  unfold turn fetchB runFetched
  cases hs : s.b.seq with
  | idle => exact .inl ⟨rfl, rfl⟩
  | exec e =>
    refine .inr ⟨e, rfl, ?_⟩
    cases hd : decode .b e.op with
    | error r => exact .inl ⟨r, rfl, by simp [hd]⟩
    | ok i => exact .inr ⟨i, rfl, by simp [hd]⟩

/-- The bit of the CRC8 loop as R500 writes it. -/
theorem crcBit_eq (crc v : Byte) :
    crcBit crc v = if (crc ^^^ v).getLsbD 0 then (crc >>> 1) ^^^ 0x8C else crc >>> 1 := by
  unfold crcBit
  rw [show (1 : Byte) = 1#8 from rfl, BitVec.and_one_eq_setWidth_ofBool_getLsbD]
  cases (crc ^^^ v).getLsbD 0 <;> simp

/-- One more channel step. -/
theorem execTimes_succ (n : Nat) (i : Instr) (s t : State) (h : exec i s = .next t) :
    execTimes (n + 1) i s = execTimes n i t := by
  simp [execTimes, h]

/-- Runs compose. -/
theorem execTimes_add (m n : Nat) (i : Instr) (s t : State) (h : execTimes m i s = .next t) :
    execTimes (m + n) i s = execTimes n i t := by
  induction m generalizing s with
  | zero =>
    simp only [execTimes] at h
    cases h
    simp
  | succ m ih =>
    obtain ⟨u, hu⟩ := exec_next i s
    rw [execTimes_succ m i s u hu] at h
    rw [Nat.add_right_comm, execTimes_succ (m + n) i s u hu]
    exact ih u h

end Sys2Proof.Machine
end

