-- ==== Sys2Proof/Laws/PerInstr.lean ====
section
/-! SUPPORT. A law stated per instruction, about its encoding: the word it is encoded to matches the pattern and mask of
its own row of spec/opcode_table.json (30_encoding.md R156). -/

namespace Sys2Proof.Laws.EncodesItsRow

/-- The encoded word of a well-formed instruction matches its own row of the opcode table, at its own place. -/
def Statement (i : Instr) : Prop :=
  i.wellFormed = true → ∃ r ∈ opcodeTable, r.mnemonic = i.mnemonic ∧ r.matchesWord i.place (encode i) = true

theorem aId : Statement .aId := fun _ => ⟨opcodeTable[0], by decide, rfl, by decide⟩

theorem aSrst : Statement .aSrst := fun _ => ⟨opcodeTable[1], by decide, rfl, by decide⟩

theorem aLdcal : Statement .aLdcal := fun _ => ⟨opcodeTable[2], by decide, rfl, by decide⟩

theorem aCfg : Statement .aCfg := fun _ => ⟨opcodeTable[3], by decide, rfl, by decide⟩

theorem aStat : Statement .aStat := fun _ => ⟨opcodeTable[4], by decide, rfl, by decide⟩

theorem aRdraw : Statement .aRdraw := fun _ => ⟨opcodeTable[5], by decide, rfl, by decide⟩

theorem aCompt : Statement .aCompt := fun _ => ⟨opcodeTable[6], by decide, rfl, by decide⟩

theorem aCompp : Statement .aCompp := fun _ => ⟨opcodeTable[7], by decide, rfl, by decide⟩

theorem aCompp64 : Statement .aCompp64 := fun _ => ⟨opcodeTable[8], by decide, rfl, by decide⟩

theorem aComph : Statement .aComph := fun _ => ⟨opcodeTable[9], by decide, rfl, by decide⟩

theorem aComphf : Statement .aComphf := fun _ => ⟨opcodeTable[10], by decide, rfl, by decide⟩

theorem aEst : Statement .aEst := fun _ => ⟨opcodeTable[11], by decide, rfl, by decide⟩

theorem bOwrst : Statement .bOwrst := fun _ => ⟨opcodeTable[12], by decide, rfl, by decide⟩

theorem bOwwbit : Statement .bOwwbit := fun _ => ⟨opcodeTable[13], by decide, rfl, by decide⟩

theorem bOwrbit : Statement .bOwrbit := fun _ => ⟨opcodeTable[14], by decide, rfl, by decide⟩

theorem bOwwbyte : Statement .bOwwbyte := fun _ => ⟨opcodeTable[15], by decide, rfl, by decide⟩

theorem bOwrbyte : Statement .bOwrbyte := fun _ => ⟨opcodeTable[16], by decide, rfl, by decide⟩

theorem bOwinit : Statement .bOwinit := fun _ => ⟨opcodeTable[17], by decide, rfl, by decide⟩

theorem bOwconv : Statement .bOwconv := fun _ => ⟨opcodeTable[18], by decide, rfl, by decide⟩

theorem bOwrsp : Statement .bOwrsp := fun _ => ⟨opcodeTable[19], by decide, rfl, by decide⟩

theorem bOwdec : Statement .bOwdec := fun _ => ⟨opcodeTable[20], by decide, rfl, by decide⟩

theorem bCrc8 (len : Nat) : Statement (.bCrc8 len) := by
  intro h
  have hlen : len < 32 := by simpa [Instr.wellFormed] using h
  refine ⟨⟨"B.CRC8", .channel .b, 0x00000020, 0xFFFFE0FF⟩, by decide, rfl, ?_⟩
  interval_cases len <;> decide

theorem owSkipRom : Statement .owSkipRom := fun _ => ⟨opcodeTable[22], by decide, rfl, by decide⟩

theorem owConvertT : Statement .owConvertT := fun _ => ⟨opcodeTable[23], by decide, rfl, by decide⟩

theorem owReadScratchpad : Statement .owReadScratchpad := fun _ => ⟨opcodeTable[24], by decide, rfl, by decide⟩

theorem owWriteScratchpad : Statement .owWriteScratchpad := fun _ => ⟨opcodeTable[25], by decide, rfl, by decide⟩

end Sys2Proof.Laws.EncodesItsRow
end

