-- ==== Sys2Proof/Tests/Slice0.lean ====
section
/-! SUPPORT. Tests on words and values written out from the spec (30_encoding.md, 95_test_vectors.md), each about one step
on a small state, and a witness for the hypotheses of each statement. -/

namespace Sys2Proof.Tests

open Sys2Proof Sys2Proof.Machine

/-! ### Helpers -/

/-- Channel A running the word `op` after `k` primitives. -/
def atA (op : Word) (args : Quad) (valid : Bool) (cal : Cal) (k : Nat) (staged : List (List Byte)) (i2c : List I2cAnswer) :
    State :=
  { State.reset with
    i2c := i2c
    schedule := [.cha]
    a := { ChanA.reset with
      cal := cal
      regs := { Regs.reset with valid := valid, lastop := op.extractLsb' 0 8 }
      seq := .exec ⟨op, args, 0x76, .prim k, staged⟩ } }

/-- Channel B running the word `op` at a position. -/
def atB (op : Word) (args : Quad) (line sub : Nat) (staged : List Bool) (owline : List Bool) : State :=
  { State.reset with
    owline := owline
    schedule := [.chb]
    b := { ChanB.reset with
      regs := { Regs.reset with lastop := op.extractLsb' 0 8 }
      seq := .exec ⟨op, args, ⟨line, sub⟩, staged⟩ } }

/-- Four arguments with only the first two not 0. -/
def args2 (x y : Word) : Quad := ⟨x, y, 0, 0⟩

/-- The state after one step of an instruction. -/
def after (i : Instr) (s : State) : State :=
  match exec i s with
  | .next t => t
  | .fault _ => State.reset
  | .refused _ => State.reset

/-- A state whose next turn is the host's, with one statement to perform. -/
def hostWith (st : HostStmt) (s : State) : State := { s with schedule := [.host], host := ⟨[st], []⟩ }

/-- The reference calibration of V-LD1. -/
def refCal : Cal :=
  ⟨27504, 26435, -1000, 36477, -10685, 3024, 2855, 140, -7, 15500, -14600, 6000, 75, 362, 0, 313, 50, 30⟩

/-- The samples of V-OW9 after the presence sample: the bytes 50 05 4B 46 7F FF 0C 10 1C. -/
def scratchpadLevels : List Bool :=
  [0x50, 0x05, 0x4B, 0x46, 0x7F, 0xFF, 0x0C, 0x10, 0x1C].flatMap fun v : Byte => bitsOfByte v

/-! ### Well-formedness: the one check there is -/

theorem test_wellFormed_refuses_len_32 : (Instr.bCrc8 32).wellFormed = false := by decide

theorem test_wellFormed_admits_len_31 : (Instr.bCrc8 31).wellFormed = true := by decide

/-! ### Decoding: every row, from the words of R153, R154 and R170 -/

theorem test_decode_channelA_bus :
    decode .a 0x00000001 = .ok .aId ∧ decode .a 0x00000002 = .ok .aSrst ∧ decode .a 0x00000003 = .ok .aLdcal ∧
    decode .a 0x00000004 = .ok .aCfg ∧ decode .a 0x00000005 = .ok .aStat ∧ decode .a 0x00000006 = .ok .aRdraw := by decide

theorem test_decode_channelA_pure :
    decode .a 0x00000008 = .ok .aCompt ∧ decode .a 0x00000009 = .ok .aCompp ∧ decode .a 0x0000000A = .ok .aCompp64 ∧
    decode .a 0x0000000B = .ok .aComph ∧ decode .a 0x0000000C = .ok .aComphf ∧ decode .a 0x0000000D = .ok .aEst := by decide

theorem test_decode_channelB_slots :
    decode .b 0x00000010 = .ok .bOwrst ∧ decode .b 0x00000011 = .ok .bOwwbit ∧ decode .b 0x00000012 = .ok .bOwrbit ∧
    decode .b 0x00000013 = .ok .bOwwbyte ∧ decode .b 0x00000014 = .ok .bOwrbyte := by decide

theorem test_decode_channelB_device :
    decode .b 0x00000018 = .ok .bOwinit ∧ decode .b 0x00000019 = .ok .bOwconv ∧ decode .b 0x0000001A = .ok .bOwrsp ∧
    decode .b 0x0000001B = .ok .bOwdec := by decide

/-- V-DE8 to V-DE11: `LEN` in bits 12:8. -/
theorem test_decode_crc8 :
    decode .b 0x00000020 = .ok (.bCrc8 0) ∧ decode .b 0x00001020 = .ok (.bCrc8 16) ∧
    decode .b 0x00001120 = .ok (.bCrc8 17) ∧ decode .b 0x00001F20 = .ok (.bCrc8 31) := by decide

theorem test_decode_bus_bytes :
    decodeBus 0xCC = .ok .owSkipRom ∧ decodeBus 0x44 = .ok .owConvertT ∧ decodeBus 0xBE = .ok .owReadScratchpad ∧
    decodeBus 0x4E = .ok .owWriteScratchpad ∧ decodeBus 0x45 = .error .unknownBusByte := by decide

/-- V-DE3 to V-DE7. -/
theorem test_decode_rejects_channelA :
    decode .a 0x00000007 = .error .unknownOpcode ∧ decode .a 0x00000010 = .error .unknownOpcode ∧
    decode .a 0x00000101 = .error .lenNotZero ∧ decode .a 0x00002001 = .error .reservedBits ∧
    decode .a 0x00000000 = .error .unknownOpcode := by decide

/-- V-DE12 to V-DE15. -/
theorem test_decode_rejects_channelB :
    decode .b 0x80000020 = .error .reservedBits ∧ decode .b 0x00000001 = .error .unknownOpcode ∧
    decode .b 0x00000015 = .error .unknownOpcode ∧ decode .b 0x00000119 = .error .lenNotZero := by decide

theorem test_decodeTableWord :
    decodeTableWord 32 0x0000000D = some .aEst ∧ decodeTableWord 32 0x00000720 = some (.bCrc8 7) ∧
    decodeTableWord 8 0xBE = some .owReadScratchpad ∧ decodeTableWord 32 0x00000007 = none := by decide

theorem test_encode : encode (.bCrc8 7) = 0x00000720 ∧ encode .aCfg = 0x00000004 ∧ encode .owConvertT = 0x44 := by decide

/-! ### Channel A: the bus commands (95_test_vectors.md section 3) -/

/-- V-ID2. -/
theorem test_id_wrong_sensor :
    (after .aId (atA 1 .zero false .zero 1 [[0x58]] [])).a.regs.res = ⟨1, 0x58, 0, 0⟩ := by decide

/-- V-ID7: the answer raises the code; the command is still running. -/
theorem test_id_nack :
    (after .aId (atA 1 .zero false .zero 0 [] [.addrNack])).a.seq =
      .exec ⟨1, .zero, 0x76, .raised .deviceNotFound, []⟩ := by decide

/-- V-SR1. -/
theorem test_srst_write :
    (after .aSrst (atA 2 .zero true .zero 0 [] [.ok []])).a.trace = [.memWrite 0x76 0xE0 [0xB6] (.ok [])] := by decide

theorem test_srst_clears_valid : (after .aSrst (atA 2 .zero true refCal 1 [] [])).a.regs.valid = false := by decide

/-- V-LD1. -/
theorem test_ldcal_reference :
    (after .aLdcal (atA 3 .zero false .zero 3
      [[0x70, 0x6B, 0x43, 0x67, 0x18, 0xFC, 0x7D, 0x8E, 0x43, 0xD6, 0xD0, 0x0B, 0x27, 0x0B, 0x8C, 0x00, 0xF9, 0xFF, 0x8C,
        0x3C, 0xF8, 0xC6, 0x70, 0x17], [0x4B], [0x6A, 0x01, 0x00, 0x13, 0x29, 0x03, 0x1E]] [])).a.cal = refCal := by decide

/-- V-LD2: a negative `H4`, as its register shows it. -/
theorem test_ldcal_negative_h4 :
    let s := after .aLdcal (atA 3 .zero false .zero 3 [[], [], [0, 0, 0, 0xF0, 0x0A, 0x03, 0]] [])
    readWindow 0x07C s = 0xFFFFFF0A ∧ readWindow 0x080 s = 48 := by decide

/-- V-CFG1: the write of 0xF2. -/
theorem test_cfg_humidity_write :
    (after .aCfg (atA 4 (args2 0x0001D049 0) false .zero 1 [[0xA8]] [.ok []])).a.trace =
      [.memWrite 0x76 0xF2 [0xA9] (.ok [])] := by decide

/-- V-CFG1: the write of 0xF5. -/
theorem test_cfg_config_write :
    (after .aCfg (atA 4 (args2 0x0001D049 0) false .zero 5 [[0xA8], [0x00], [0x01]] [.ok []])).a.trace =
      [.memWrite 0x76 0xF5 [0xA1] (.ok [])] := by decide

/-- V-ST5 and V-ST7. -/
theorem test_stat_masks :
    (after .aStat (atA 5 .zero false .zero 1 [[0xF6]] [])).a.regs.res = ⟨0, 0xF6, 0, 0⟩ ∧
    (after .aStat (atA 5 .zero false .zero 1 [[0x0C]] [])).a.regs.res = ⟨1, 0x0C, 0, 0⟩ := by decide

/-- V-RD4. -/
theorem test_rdraw_nibbles :
    (after .aRdraw (atA 6 .zero false .zero 1 [[0x12, 0x34, 0x5F, 0xAB, 0xCD, 0xE7, 0x00, 0x01]] [])).a.regs.res =
      ⟨74565, 703710, 1, 0⟩ := by decide

/-! ### Channel A: the pure commands (section 4) -/

/-- V-T1. -/
theorem test_compt_reference :
    (after .aCompt (atA 8 (args2 519888 0) true refCal 0 [] [])).a.regs.res = ⟨2508, 128422, 0, 0⟩ := by decide

/-- V-T6: the square wraps, and the temperature is clamped. -/
theorem test_compt_wraps :
    (after .aCompt (atA 8 (args2 1048575 0) true { refCal with t1 := 0 } 0 [] [])).a.regs.res =
      ⟨0xFFFFF060, 0xFFF9D0B4, 0, 0⟩ := by decide

/-- V-P1.1: the branch below 0x80000000. -/
theorem test_compp_reference :
    (after .aCompp (atA 9 (args2 415148 128422) true refCal 0 [] [])).a.regs.res.r0 = 100656 := by decide

/-- V-P3.3: the other branch, with a negative `t_fine`. -/
theorem test_compp_branch :
    (after .aCompp (atA 9 (args2 1048575 (-1)) true refCal 0 [] [])).a.regs.res.r0 = 222089 := by decide

/-- V-P1.1. -/
theorem test_compp64_reference :
    (after .aCompp64 (atA 10 (args2 415148 128422) true refCal 0 [] [])).a.regs.res.r0 = 0x01892D41 := by decide

/-- V-P3.1: a negative result shown as its low 32 bits. -/
theorem test_compp64_negative :
    (after .aCompp64 (atA 10 (args2 1048575 128422) true refCal 0 [] [])).a.regs.res.r0 = 0xFFE61920 := by decide

/-- V-H1.1. -/
theorem test_comph_reference :
    (after .aComph (atA 11 (args2 30000 128422) true refCal 0 [] [])).a.regs.res.r0 = 56317 := by decide

/-- V-H4. -/
theorem test_comph_clamps :
    (after .aComph (atA 11 (args2 40000 128422) true refCal 0 [] [])).a.regs.res.r0 = 102400 := by decide

/-- V-H1.1 and V-H1.7. -/
theorem test_comphf_reference :
    (after .aComphf (atA 12 (args2 30000 128422) true refCal 0 [] [])).a.regs.res = ⟨0x5B70BB51, 0x404B8017, 0, 0⟩ ∧
    (after .aComphf (atA 12 (args2 25000 150000) true refCal 0 [] [])).a.regs.res = ⟨0x1963CFDB, 0x403AF5E5, 0, 0⟩ := by
  decide

/-- R341's corner (I21): `H2` = 0 and a negative `t3` make the product −0.0. -/
theorem test_comphf_negative_zero :
    (after .aComphf (atA 12 (args2 0 128422) true { refCal with h2 := 0 } 0 [] [])).a.regs.res = ⟨0, 0x80000000, 0, 0⟩ := by
  decide

/-- V-EST1. -/
theorem test_est_normal :
    (after .aEst (atA 13 (args2 0x00018049 0) false .zero 0 [] [])).a.regs.res = ⟨8000, 9300, 102040, 9800⟩ := by decide

/-- V-EST9. -/
theorem test_est_invalid :
    (after .aEst (atA 13 (args2 7 0) false .zero 0 [] [])).a.regs.err = .illegalOperand := by decide

/-! ### Channel B (sections 5 and 6) -/

/-- V-OW2. -/
theorem test_owrst_absent : (after .bOwrst (atB 0x10 .zero 1 0 [true] [])).b.regs.res.r0 = 0 := by decide

/-- V-OW1: the fourth primitive. -/
theorem test_owrst_wait : (after .bOwrst (atB 0x10 .zero 0 3 [false] [])).b.trace = [.wait 410] := by decide

/-- V-OW3b: bit 0 of 0xFFFFFFFE is 0. -/
theorem test_owwbit_zero : (after .bOwwbit (atB 0x11 (args2 0xFFFFFFFE 0) 0 0 [] [])).b.trace = [.driveLow 60] := by decide

/-- V-OW4. -/
theorem test_owrbit_one : (after .bOwrbit (atB 0x12 .zero 1 0 [true] [])).b.regs.res.r0 = 1 := by decide

/-- V-OW5: bits 1 and 2 of 0xCC in time order. -/
theorem test_owwbyte_order :
    (after .bOwwbyte (atB 0x13 (args2 0xCC 0) 0 2 [] [])).b.trace = [.driveLow 60] ∧
    (after .bOwwbyte (atB 0x13 (args2 0xCC 0) 0 4 [] [])).b.trace = [.driveLow 15] := by decide

/-- V-OW5b. -/
theorem test_owrbyte_order :
    (after .bOwrbyte (atB 0x14 .zero 1 0 [false, false, false, false, true, false, true, false] [])).b.regs.res.r0 = 0x50 := by
  decide

/-- V-OW6: bit 0 of the last payload byte 0x7F. -/
theorem test_owinit_payload :
    (after .bOwinit (atB 0x18 (args2 0x007F0000 0) 5 0 [false] [])).b.trace = [.driveLow 15] := by decide

/-- V-OW6b. -/
theorem test_owinit_absent :
    (after .bOwinit (atB 0x18 (args2 0x007F0000 0) 1 0 [true] [])).b.regs.err = .deviceNotFound := by decide

/-- V-OW7: poll 5 reads 1. -/
theorem test_owconv_count :
    (after .bOwconv (atB 0x19 .zero 7 4 [false, false, false, false, false, true] [])).b.regs.res.r0 = 5 := by decide

/-- V-OW8: after poll 750. -/
theorem test_owconv_timeout :
    (after .bOwconv (atB 0x19 .zero 753 0 [false, false] [])).b.regs.err = .conversionTimeout := by decide

/-- V-OW9. -/
theorem test_owrsp_accepts :
    let s := after .bOwrsp (atB 0x1A .zero 12 0 (false :: scratchpadLevels) [])
    s.b.regs.res = ⟨0x00000550, 0, 0x40554000, 0⟩ ∧ s.b.sp = ⟨0x464B0550, 0x100CFF7F, 0x1C⟩ ∧ s.b.regs.valid = true := by
  decide +kernel

/-- V-OW10: byte 0 is 0x51. -/
theorem test_owrsp_rejects :
    let s := after .bOwrsp (atB 0x1A .zero 12 0 (false :: true :: scratchpadLevels.drop 1) [])
    s.b.regs.err = .crcMismatch ∧ s.b.sp = ⟨0, 0, 0⟩ ∧ s.b.regs.valid = false := by decide +kernel

/-- V-DEC5. -/
theorem test_owdec_negative :
    (after .bOwdec (atB 0x1B (args2 0x0000FE6F 0) 0 0 [] [])).b.regs.res = ⟨0xFFFFFE6F, 0, 0xC0391000, 0⟩ := by decide

/-- V-DEC8 and V-DEC7. -/
theorem test_owdec_lowest_and_zero :
    (after .bOwdec (atB 0x1B (args2 0x00008000 0) 0 0 [] [])).b.regs.res = ⟨0xFFFF8000, 0, 0xC0A00000, 0⟩ ∧
    (after .bOwdec (atB 0x1B .zero 0 0 [] [])).b.regs.res = ⟨0, 0, 0, 0⟩ := by decide

/-- V-CRC14. -/
theorem test_crc8_seven_bytes :
    (after (.bCrc8 7) (atB 0x720 (args2 0x01B81C02 0) 0 0 [] [])).b.regs.res.r0 = 0xA2 := by decide +kernel

/-- V-DE10. -/
theorem test_crc8_too_long : (after (.bCrc8 17) (atB 0x1120 .zero 0 0 [] [])).b.regs.err = .illegalOperand := by decide

/-! ### The single-wire command bytes: their first and last primitives (R170, R402, R404) -/

/-- Bit 0 of 0xCC is 0. -/
theorem test_owSkipRom : (after .owSkipRom (atB 0x19 .zero 1 0 [false] [])).b.trace = [.driveLow 60] := by decide

/-- Bit 2 of 0x44 is 1. -/
theorem test_owConvertT : (after .owConvertT (atB 0x19 .zero 2 4 [false] [])).b.trace = [.driveLow 15] := by decide

/-- Bit 7 of 0xBE is 1, and after it the command goes on with its next line. -/
theorem test_owReadScratchpad :
    let s := after .owReadScratchpad (atB 0x1A .zero 2 15 [false] [])
    s.b.trace = [.release 65] ∧ s.b.seq = .exec ⟨0x1A, .zero, ⟨3, 0⟩, [false]⟩ := by decide

/-- Bit 7 of 0x4E is 0. -/
theorem test_owWriteScratchpad : (after .owWriteScratchpad (atB 0x18 .zero 2 15 [false] [])).b.trace = [.release 20] := by decide

/-! ### The step, the window and the placing of a word -/

/-- V-LC2: the status word right after acceptance. -/
theorem test_status_after_accept : readWindow 0x004 (writeWindow 0x000 0x05 State.reset) = 0x00050001 := by decide

/-- V-DE4: the status word after an illegal command. -/
theorem test_status_after_illegal : readWindow 0x004 (raiseA .illegalCommand (acceptA 0x10 State.reset)) = 0x00100602 := by
  decide

/-- A placed word runs at the next step, on its own channel (log 9). -/
theorem test_withFetchWord_runs :
    fetchA (State.reset.withFetchWord 32 0x0000000D) = .instr .aEst ∧
    fetchB (State.reset.withFetchWord 32 0x00000720) = .instr (.bCrc8 7) ∧
    fetchB (State.reset.withFetchWord 8 0x44) = .instr .owConvertT ∧
    (State.reset.withFetchWord 8 0xBE).schedule = [.chb] := by decide

/-! ### Witnesses: a state and operands that meet the hypotheses of each statement -/

/-- A state in which everything differs from reset but the schedule, which is given. -/
def busy (q : List Agent) (p : List HostStmt) : State :=
  { a := { ChanA.reset with seq := .exec ⟨0x01, .zero, 0x76, .prim 0, []⟩, regs := { Regs.reset with res := ⟨1, 2, 3, 4⟩ } }
    b := { ChanB.reset with seq := .exec ⟨0x10, .zero, ⟨0, 0⟩, []⟩, regs := { Regs.reset with res := ⟨5, 6, 7, 8⟩ } }
    host := ⟨p, []⟩
    i2c := [.ok [0x60]]
    owline := [false]
    schedule := q }

theorem witness_BlockResetTurn : ∃ s q, State.schedule s = .reset :: q := ⟨busy [.reset] [], [], rfl⟩

theorem witness_HostCommandAccepted_a :
    ∃ (s : State) (w : Word) (p : List HostStmt) (q : List Agent),
      s.schedule = .host :: q ∧ s.host.program = .wr 32 0x000 w :: p ∧ s.a.seq = .idle :=
  ⟨hostWith (.wr 32 0x000 0xFFFFFFFF) State.reset, _, [], [], rfl, rfl, rfl⟩

theorem witness_HostCommandAccepted_b :
    ∃ (s : State) (w : Word) (p : List HostStmt) (q : List Agent),
      s.schedule = .host :: q ∧ s.host.program = .wr 32 0x100 w :: p ∧ s.b.seq = .idle :=
  ⟨hostWith (.wr 32 0x100 0x00000020) State.reset, _, [], [], rfl, rfl, rfl⟩

theorem witness_HostCommandDropped_a :
    ∃ (s : State) (w : Word) (p : List HostStmt) (q : List Agent) (e : ExecA),
      s.schedule = .host :: q ∧ s.host.program = .wr 32 0x000 w :: p ∧ s.a.seq = .exec e :=
  ⟨busy [.host] [.wr 32 0x000 0x02], _, [], [], _, rfl, rfl, rfl⟩

theorem witness_HostCommandDropped_b :
    ∃ (s : State) (w : Word) (p : List HostStmt) (q : List Agent) (e : ExecB),
      s.schedule = .host :: q ∧ s.host.program = .wr 32 0x100 w :: p ∧ s.b.seq = .exec e :=
  ⟨busy [.host] [.wr 32 0x100 0x11], _, [], [], _, rfl, rfl, rfl⟩

/-- One witness for each clause. -/
theorem witness_HostRegisterWrites :
    ∀ offset ∈ [0x004, 0x104, 0x008, 0x010, 0x014, 0x018, 0x01C, 0x110, 0x114, 0x118, 0x11C],
      ∃ (s : State) (v : Word) (p : List HostStmt) (q : List Agent),
        s.schedule = .host :: q ∧ s.host.program = .wr 32 offset v :: p :=
  fun offset _ => ⟨busy [.host] [.wr 32 offset 8], 8, [], [], rfl, rfl⟩

/-- A read-only register, a reserved offset, and the last offset of the window. -/
theorem witness_HostIgnoredWrites :
    ∀ offset ∈ [0x020, 0x00C, 0x1FC],
      (∃ (s : State) (v : Word) (p : List HostStmt) (q : List Agent),
        s.schedule = .host :: q ∧ s.host.program = .wr 32 offset v :: p) ∧
      offset % 4 = 0 ∧ offset < 0x200 ∧
      offset ∉ [0x000, 0x004, 0x008, 0x010, 0x014, 0x018, 0x01C, 0x100, 0x104, 0x110, 0x114, 0x118, 0x11C] :=
  fun offset h => ⟨⟨busy [.host] [.wr 32 offset 8], 8, [], [], rfl, rfl⟩, by revert offset; decide⟩

theorem witness_HostReads_read :
    ∀ offset ∈ [0x000, 0x1FC],
      (∃ (s : State) (p : List HostStmt) (q : List Agent),
        s.schedule = .host :: q ∧ s.host.program = .rd 32 offset :: p) ∧ offset % 4 = 0 ∧ offset < 0x200 :=
  fun offset h => ⟨⟨busy [.host] [.rd 32 offset], [], [], rfl, rfl⟩, by revert offset; decide⟩

/-- The offsets beside each readable range. -/
theorem witness_HostReads_reserved :
    ∀ offset ∈ [0x000, 0x00C, 0x030, 0x03C, 0x088, 0x100, 0x10C, 0x12D, 0x13C],
      ¬ (offset ∈ [0x004, 0x008, 0x104] ∨ (0x010 ≤ offset ∧ offset ≤ 0x02C) ∨ (0x040 ≤ offset ∧ offset ≤ 0x084) ∨
        (0x110 ≤ offset ∧ offset ≤ 0x12C) ∨ (0x130 ≤ offset ∧ offset ≤ 0x138)) := by decide

theorem witness_HostReads_poll :
    ∀ ch : Channel, ∃ (s : State) (p : List HostStmt) (q : List Agent),
      s.schedule = .host :: q ∧ s.host.program = .poll ch :: p :=
  fun ch => ⟨busy [.host] [.poll ch], [], [], rfl, rfl⟩

/-- The ends of the two coefficient ranges. -/
theorem witness_RegisterWindowLayout :
    ((1 : Nat) ≤ 1 ∧ (1 : Nat) ≤ 9) ∧ ((1 : Nat) ≤ 9 ∧ (9 : Nat) ≤ 9) ∧ ((1 : Nat) ≤ 6 ∧ (6 : Nat) ≤ 6) := by decide

theorem witness_HostAccessRefused_width :
    ∃ (s : State) (p : List HostStmt) (q : List Agent) (width offset : Nat) (v : Word),
      s.schedule = .host :: q ∧
      (s.host.program = .wr width offset v :: p ∨ s.host.program = .rd width offset :: p) ∧ width ≠ 32 :=
  ⟨busy [.host] [.wr 16 0x000 1], [], [], 16, 0x000, 1, rfl, .inl rfl, by decide⟩

theorem witness_HostAccessRefused_alignment :
    ∃ (s : State) (p : List HostStmt) (q : List Agent) (width offset : Nat) (v : Word),
      s.schedule = .host :: q ∧
      (s.host.program = .wr width offset v :: p ∨ s.host.program = .rd width offset :: p) ∧ width = 32 ∧ offset % 4 ≠ 0 :=
  ⟨busy [.host] [.rd 32 0x1FF], [], [], 32, 0x1FF, 0, rfl, .inr rfl, rfl, by decide⟩

theorem witness_HostCannotReachRunningCommand :
    ∃ (s t : State) (e : ExecA) (e' : ExecB), turn .host s = .next t ∧ s.a.seq = .exec e ∧ s.b.seq = .exec e' :=
  ⟨busy [.host] [.wr 32 0x000 0x02], _, _, _, rfl, rfl, rfl⟩

theorem witness_IllegalWordsComplete_a :
    ∃ (s : State) (e : ExecA) (q : List Agent) (r : Reject),
      s.schedule = .cha :: q ∧ s.a.seq = .exec e ∧ decode .a e.op = .error r :=
  ⟨atA 0x07 .zero false .zero 0 [] [], _, [], .unknownOpcode, rfl, rfl, by decide⟩

theorem witness_IllegalWordsComplete_b :
    ∃ (s : State) (e : ExecB) (q : List Agent) (r : Reject),
      s.schedule = .chb :: q ∧ s.b.seq = .exec e ∧ decode .b e.op = .error r :=
  ⟨atB 0x80000020 .zero 0 0 [] [], _, [], .reservedBits, rfl, rfl, by decide⟩

theorem witness_StepRunsInstruction_a :
    ∃ (s : State) (e : ExecA) (q : List Agent) (i : Instr),
      s.schedule = .cha :: q ∧ s.a.seq = .exec e ∧ decode .a e.op = .ok i :=
  ⟨atA 0x0D .zero false .zero 0 [] [], _, [], .aEst, rfl, rfl, by decide⟩

theorem witness_StepRunsInstruction_b :
    ∃ (s : State) (e : ExecB) (q : List Agent) (i : Instr),
      s.schedule = .chb :: q ∧ s.b.seq = .exec e ∧ decode .b e.op = .ok i ∧ ∀ v, nextB i e ≠ some (.bus v) :=
  ⟨atB 0x10 .zero 0 0 [] [], _, [], .bOwrst, rfl, rfl, by decide, fun v h => by simp [nextB, owrstNext] at h⟩

theorem witness_BusByteRunsAsInstruction :
    ∃ (s : State) (e : ExecB) (q : List Agent) (i : Instr) (v : Byte),
      s.schedule = .chb :: q ∧ s.b.seq = .exec e ∧ decode .b e.op = .ok i ∧ nextB i e = some (.bus v) :=
  ⟨atB 0x18 .zero 2 7 [false] [], _, [], .bOwinit, 0x4E, rfl, rfl, by decide, by decide⟩

/-- One witness for each of the four commands with one transaction. -/
theorem witness_bus_commands :
    ∀ ans ∈ [[I2cAnswer.ok [0x60]], [.ok []], [.ok [0xFF]], [.ok [1, 2, 3, 4, 5, 6, 7, 8]]],
      ∃ (s : State) (w : Word) (args : Quad) (dev : BitVec 7),
        s.a.seq = .exec ⟨w, args, dev, .prim 0, []⟩ ∧ s.i2c = ans ++ [] :=
  fun ans _ => ⟨atA 1 .zero false .zero 0 [] (ans ++ []), _, _, _, rfl, rfl⟩

theorem witness_LdcalCompletes :
    ∃ (s : State) (w : Word) (args : Quad) (dev : BitVec 7) (c a h : List Byte) (rest : List I2cAnswer),
      s.a.seq = .exec ⟨w, args, dev, .prim 0, []⟩ ∧ s.a.regs.valid = false ∧
      c.length = 24 ∧ a.length = 1 ∧ h.length = 7 ∧ s.i2c = .ok c :: .ok a :: .ok h :: rest :=
  ⟨atA 3 .zero false .zero 0 [] [.ok (List.replicate 24 0xFF), .ok [0x4B], .ok (List.replicate 7 0x80)], _, _, _,
    List.replicate 24 0xFF, [0x4B], List.replicate 7 0x80, [], rfl, rfl, rfl, rfl, rfl, rfl⟩

theorem witness_CalibrationGate_locked :
    ∃ (s : State) (e : ExecA), s.a.seq = .exec e ∧ e.phase = .prim 0 ∧ s.a.regs.valid = true :=
  ⟨atA 3 .zero true refCal 0 [] [], _, rfl, rfl, rfl⟩

theorem witness_CalibrationGate_missing :
    ∃ (s : State) (e : ExecA), s.a.seq = .exec e ∧ e.phase = .prim 0 ∧ s.a.regs.valid = false ∧
      Instr.aCompt ∈ [Instr.aCompt, .aCompp, .aCompp64, .aComph, .aComphf] :=
  ⟨atA 8 .zero false .zero 0 [] [], _, rfl, rfl, rfl, by decide⟩

/-- Every field at its largest valid code. -/
theorem witness_CfgCompletes :
    ∃ (s : State) (w : Word) (args : Quad) (dev : BitVec 7) (r2 r4 r5 : Byte) (rest : List I2cAnswer),
      s.a.seq = .exec ⟨w, args, dev, .prim 0, []⟩ ∧
      (args.r0.extractLsb' 0 3).toNat ≤ 5 ∧ (args.r0.extractLsb' 3 3).toNat ≤ 5 ∧ (args.r0.extractLsb' 6 3).toNat ≤ 5 ∧
      (args.r0.extractLsb' 9 3).toNat ≤ 4 ∧ args.r0.extractLsb' 15 2 ≠ 2 ∧
      s.i2c = .ok [r2] :: .ok [] :: .ok [r4] :: .ok [] :: .ok [r5] :: .ok [] :: rest :=
  ⟨atA 4 (args2 0x0001F96D 0) false .zero 0 [] [.ok [0xFF], .ok [], .ok [0x00], .ok [], .ok [0xFF], .ok []], 4,
    args2 0x0001F96D 0, 0x76, 0xFF, 0x00, 0xFF, [], rfl, by decide, by decide, by decide, by decide, by decide, rfl⟩

/-- Each of the five ways to be invalid, at its smallest invalid code (V-CFG5 to V-CFG7). -/
theorem witness_InvalidConfigRefused :
    ∀ v ∈ [(0x00000006 : Word), 0x00000030, 0x00000180, 0x00000A00, 0x00010000],
      (∃ (s : State) (e : ExecA), s.a.seq = .exec e ∧ e.phase = .prim 0 ∧ e.args.r0 = v) ∧
      (5 < (v.extractLsb' 0 3).toNat ∨ 5 < (v.extractLsb' 3 3).toNat ∨ 5 < (v.extractLsb' 6 3).toNat ∨
        4 < (v.extractLsb' 9 3).toNat ∨ v.extractLsb' 15 2 = 2) :=
  fun v h => ⟨⟨atA 4 (args2 v 0) false .zero 0 [] [], _, rfl, rfl, rfl⟩, by
    simp only [List.mem_cons, List.not_mem_nil, or_false] at h
    rcases h with rfl | rfl | rfl | rfl | rfl <;> decide⟩

/-- The first transaction of `ID`, the last of `LDCAL` and the last of `CFG`, failing in either way. -/
theorem witness_BusFailureEndsCommand :
    (∃ (s : State) (e : ExecA) (ev : EventA) (rest : List I2cAnswer),
      ev = .memRead e.dev 0xD0 1 .fail ∧ s.a.seq = .exec e ∧ e.phase = .prim 0 ∧ s.i2c = .fail :: rest) ∧
    (∃ (s : State) (e : ExecA) (ev : EventA) (rest : List I2cAnswer),
      ev = .memRead e.dev 0xE1 7 .addrNack ∧ s.a.seq = .exec e ∧ e.phase = .prim 2 ∧ s.a.regs.valid = false ∧
      s.i2c = .addrNack :: rest) ∧
    (∃ (s : State) (e : ExecA) (ev : EventA) (rest : List I2cAnswer),
      ev = .memWrite e.dev 0xF5 [(stagedByte e.staged 2 0 &&& 0x03) |||
        (e.args.r0.extractLsb' 12 3).setWidth 8 <<< 5 ||| (e.args.r0.extractLsb' 9 3).setWidth 8 <<< 2] .fail ∧
      s.a.seq = .exec e ∧ e.phase = .prim 5 ∧ (unpackConfig e.args.r0).valid = true ∧ s.i2c = .fail :: rest) :=
  ⟨⟨atA 1 .zero false .zero 0 [] [.fail], _, _, [], rfl, rfl, rfl, rfl⟩,
    ⟨atA 3 .zero false .zero 2 [[], []] [.addrNack], _, _, [], rfl, rfl, rfl, rfl, rfl⟩,
    ⟨atA 4 (args2 0x0001F96D 0) false .zero 5 [[0], [0], [0]] [.fail], _, _, [], rfl, rfl, rfl, by decide, rfl⟩⟩

/-- The first and the last transaction of `CFG`, and the sample of each slot that has one: the reset slot of `OWRST`, the
last read slot of `OWRSP` and the last poll of `OWCONV`. -/
theorem witness_UnansweredBusWaits :
    (∀ k ∈ [0, 5], k < 6 ∧ ∃ (s : State) (e : ExecA), s.a.seq = .exec e ∧ e.phase = .prim k ∧ s.a.regs.valid = false ∧
      (unpackConfig e.args.r0).valid = true ∧ s.i2c = []) ∧
    (∀ x ∈ [(Instr.bOwrst, 0, 2, []), (.bOwrsp, 11, 30, [false]), (.bOwconv, 752, 2, [false, false])],
      ∃ (s : State) (e : ExecB) (ops : List PrimB), s.b.seq = .exec e ∧ e = ⟨0, .zero, ⟨x.2.1, x.2.2.1⟩, x.2.2.2⟩ ∧
        nextB x.1 e = some (.slot ops) ∧ ops[e.phase.sub]? = some .sample ∧ s.owline = []) :=
  ⟨fun k h => ⟨by revert k; decide, atA 4 .zero false .zero k [] [], _, rfl, rfl, rfl,
      show (unpackConfig 0).valid = true by decide, rfl⟩, fun x h => by
    simp only [List.mem_cons, List.not_mem_nil, or_false] at h
    rcases h with rfl | rfl | rfl <;> exact ⟨atB 0 .zero _ _ _ [], _, _, rfl, rfl, rfl, rfl, rfl⟩⟩

/-- For the five compensation commands (and `EST`, which does not need the table). -/
theorem witness_compensation :
    ∃ (s : State) (e : ExecA) (k : Nat), s.a.seq = .exec e ∧ e.phase = .prim k ∧ s.a.regs.valid = true :=
  ⟨atA 8 (args2 0xFFFFFFFF 0x80000000) true refCal 0 [] [], _, 0, rfl, rfl, rfl⟩

theorem witness_PressureZeroGuard :
    ∃ (s : State) (e : ExecA) (k : Nat), s.a.seq = .exec e ∧ e.phase = .prim k ∧ s.a.regs.valid = true ∧ s.a.cal.p1 = 0 ∧
      Instr.aCompp64 ∈ [Instr.aCompp, .aCompp64] :=
  ⟨atA 10 (args2 415148 128422) true { refCal with p1 := 0 } 0 [] [], _, 0, rfl, rfl, rfl, rfl, by decide⟩

/-- Every field at its largest valid code, in Normal mode. -/
theorem witness_EstCompletes :
    ∃ (s : State) (e : ExecA) (k : Nat), s.a.seq = .exec e ∧ e.phase = .prim k ∧
      (e.args.r0.extractLsb' 0 3).toNat ≤ 5 ∧ (e.args.r0.extractLsb' 3 3).toNat ≤ 5 ∧
      (e.args.r0.extractLsb' 6 3).toNat ≤ 5 ∧ (e.args.r0.extractLsb' 9 3).toNat ≤ 4 ∧
      (e.args.r0.extractLsb' 15 2).toNat ≠ 2 :=
  ⟨atA 13 (args2 0x0001F96D 0) false .zero 0 [] [], _, 0, rfl, rfl, by decide, by decide, by decide, by decide, by decide⟩

/-- A tie, a number already representable, the bounds on the number compared with, and a nonzero divisor. -/
theorem witness_RoundingNearestEven :
    F64.round false (2 ^ 54 + 2) 0 = ⟨false, 2 ^ 52, 2⟩ ∧ F64.round true 3 (-2) = ⟨true, 3, -2⟩ ∧
    (2 ^ 53 ≤ 2 ^ 53 ∧ (-1074 : Int) ≤ -1074) ∧ (F64.ofInt (-1)).mant ≠ 0 := by decide

/-- Every line level that `OWRST`, `OWRBIT` and the absent-device statement take. -/
theorem witness_one_sample :
    ∀ x : Bool, ∃ (s : State) (w : Word) (args : Quad) (rest : List Bool),
      s.b.seq = .exec ⟨w, args, ⟨0, 0⟩, []⟩ ∧ s.owline = x :: rest :=
  fun x => ⟨atB 0x10 (args2 1 0) 0 0 [] [x], _, _, [], rfl, rfl⟩

theorem witness_AbsentDeviceEndsCommand : ∀ i ∈ [Instr.bOwinit, .bOwconv, .bOwrsp],
    ∃ (s : State) (w : Word) (args : Quad) (rest : List Bool),
      i ∈ [Instr.bOwinit, .bOwconv, .bOwrsp] ∧ s.b.seq = .exec ⟨w, args, ⟨0, 0⟩, []⟩ ∧ s.owline = true :: rest :=
  fun _ h => ⟨atB 0x18 .zero 0 0 [] [true], _, _, [], h, rfl, rfl⟩

theorem witness_ByteCommandsComplete :
    ∃ (s : State) (w : Word) (args : Quad) (v : Byte) (rest : List Bool),
      s.b.seq = .exec ⟨w, args, ⟨0, 0⟩, []⟩ ∧ s.owline = bitsOfByte v ++ rest :=
  ⟨atB 0x14 .zero 0 0 [] (bitsOfByte 0x50 ++ [true]), _, _, 0x50, [true], rfl, rfl⟩

/-- The first and the last poll. -/
theorem witness_OwconvEndsAtPoll :
    ∀ k ∈ [0, 749], k < 750 ∧ ∃ (s : State) (w : Word) (args : Quad) (rest : List Bool),
      s.b.seq = .exec ⟨w, args, ⟨0, 0⟩, []⟩ ∧ s.owline = false :: (List.replicate k false ++ true :: rest) :=
  fun k h => ⟨by revert k; decide, atB 0x19 .zero 0 0 [] (false :: (List.replicate k false ++ [true])), _, _, [], rfl, rfl⟩

/-- `n` polls that read 0, for any `n`. -/
theorem polls_unanswered (n : Nat) :
    ∃ (s : State) (w : Word) (args : Quad) (rest : List Bool),
      s.b.seq = .exec ⟨w, args, ⟨0, 0⟩, []⟩ ∧ s.owline = false :: (List.replicate n false ++ rest) ∧
      n + 1 ≤ s.owline.length :=
  ⟨atB 0x19 .zero 0 0 [] (false :: (List.replicate n false ++ [])), _, _, [], rfl, rfl, by simp [atB]⟩

theorem witness_OwconvBound :
    ∃ (s : State) (w : Word) (args : Quad) (rest : List Bool),
      s.b.seq = .exec ⟨w, args, ⟨0, 0⟩, []⟩ ∧ s.owline = false :: (List.replicate 750 false ++ rest) ∧
      751 ≤ s.owline.length := polls_unanswered 750

theorem witness_OwrspAccepts :
    ∃ (s : State) (w : Word) (args : Quad) (d : List Byte) (rest : List Bool),
      s.b.seq = .exec ⟨w, args, ⟨0, 0⟩, []⟩ ∧ d.length = 9 ∧ crc8 (d.take 8) = d.getD 8 0 ∧
      s.owline = false :: (d.flatMap bitsOfByte ++ rest) :=
  ⟨atB 0x1A .zero 0 0 [] (false :: (scratchpadLevels ++ [])), _, _, [0x50, 0x05, 0x4B, 0x46, 0x7F, 0xFF, 0x0C, 0x10, 0x1C], [],
    rfl, rfl, by decide +kernel, rfl⟩

theorem witness_OwrspRejects :
    ∃ (s : State) (w : Word) (args : Quad) (d : List Byte) (rest : List Bool),
      s.b.seq = .exec ⟨w, args, ⟨0, 0⟩, []⟩ ∧ d.length = 9 ∧ crc8 (d.take 8) ≠ d.getD 8 0 ∧
      s.owline = false :: (d.flatMap bitsOfByte ++ rest) :=
  ⟨atB 0x1A .zero 0 0 [] (false :: ((List.replicate 9 (0xFF : Byte)).flatMap bitsOfByte ++ [])), _, _, List.replicate 9 0xFF, [],
    rfl, rfl, by decide +kernel, rfl⟩

/-- For `OWDEC` and both clauses of `CRC8`, at the lengths where they meet. -/
theorem witness_OwdecCompletes_CrcEightCompletes :
    (∃ (s : State) (e : ExecB), s.b.seq = .exec e) ∧ (16 : Nat) ≤ 16 ∧ (16 : Nat) < 17 :=
  ⟨⟨atB 0x1020 .zero 0 0 [] [], _, rfl⟩, by decide, by decide⟩

/-- For the four command bytes. -/
theorem witness_BusCommandsSendTheirByte :
    ∃ (s : State) (e : ExecB), s.b.seq = .exec e ∧ e.phase.sub = 0 ∧
      (Instr.owWriteScratchpad, (0x4E : Byte)) ∈
        [(Instr.owSkipRom, (0xCC : Byte)), (.owConvertT, 0x44), (.owReadScratchpad, 0xBE), (.owWriteScratchpad, 0x4E)] :=
  ⟨atB 0x18 .zero 2 0 [false] [], _, rfl, rfl, by decide⟩

/-- Bits 0 and 71 of the valid scratchpad of V-CRC4, and the last bit of the CRC register. -/
theorem witness_crc_statements :
    ([0x50, 0x05, 0x4B, 0x46, 0x7F, 0xFF, 0x0C, 0x10, 0x1C] : List Byte).length = 9 ∧
    validScratchpad [0x50, 0x05, 0x4B, 0x46, 0x7F, 0xFF, 0x0C, 0x10, 0x1C] = true ∧ 0 < 72 ∧ 71 < 72 ∧ 7 < 8 := by
  decide +kernel

/-- The reset state has the invariants whose statements take them as a hypothesis, and steps. -/
theorem witness_invariants :
    ScratchpadValid State.reset ∧ LineQuiet State.reset ∧ FreshUntilFirstCommand State.reset ∧
    CodesFitCommand State.reset ∧ SensorAccessesListed State.reset ∧ NibbleCoefficientsInRange State.reset ∧
    TimebaseCounts State.reset ∧ step State.reset = .next State.reset := by
  refine ⟨by simp [ScratchpadValid, State.reset, ChanB.reset, Regs.reset], rfl, ?_, ?_, ?_, ?_, rfl, rfl⟩
  · simp [FreshUntilFirstCommand, Regs.fresh, State.reset, ChanA.reset, ChanB.reset, Regs.reset]
  · simp [CodesFitCommand, State.reset, ChanA.reset, ChanB.reset, Regs.reset]
  · simp [SensorAccessesListed, State.reset, ChanA.reset]
  · unfold NibbleCoefficientsInRange
    decide

/-- A step of a running command that changes a result, and a write to `A_CMD` that sets `BUSY`. -/
theorem witness_RegistersChangeOnlyAtCompletion :
    (∃ s t : State, step s = .next t ∧ t.a.regs.res ≠ s.a.regs.res ∧ s.a.seq.busy = true ∧ t.a.seq.busy = false) ∧
    (∃ s t : State, step s = .next t ∧ s.a.seq.busy = false ∧ t.a.seq.busy = true) :=
  ⟨⟨atA 13 (args2 0x00018049 0) false .zero 0 [] [], _, rfl, by decide, by decide, by decide⟩,
    ⟨hostWith (.wr 32 0x000 0x0D) State.reset, _, rfl, rfl, rfl⟩⟩

/-- `n` answers of the bus and `m` turns of channel A, for any `n` and `m`. -/
theorem answered_turns_a (n m : Nat) :
    ∃ (s : State) (w : Word) (args : Quad) (dev : BitVec 7) (q : List Agent),
      s.a.seq = .exec ⟨w, args, dev, .prim 0, []⟩ ∧ n ≤ s.i2c.length ∧ s.schedule = List.replicate m .cha ++ q :=
  ⟨{ atA 4 .zero false .zero 0 [] (List.replicate n .fail) with schedule := List.replicate m .cha ++ [] }, _, _, _, [],
    rfl, by simp [atA], rfl⟩

/-- `n` levels of the line and `m` turns of channel B, for any `n` and `m`. -/
theorem answered_turns_b (n m : Nat) :
    ∃ (s : State) (w : Word) (args : Quad) (q : List Agent),
      s.b.seq = .exec ⟨w, args, ⟨0, 0⟩, []⟩ ∧ n ≤ s.owline.length ∧ s.schedule = List.replicate m .chb ++ q :=
  ⟨{ atB 0x19 .zero 0 0 [] (List.replicate n false) with schedule := List.replicate m .chb ++ [] }, _, _, [],
    rfl, by simp [atB], rfl⟩

/-- Enough answers, and enough turns. -/
theorem witness_EveryCommandCompletes :
    (∃ (s : State) (w : Word) (args : Quad) (dev : BitVec 7) (q : List Agent),
      s.a.seq = .exec ⟨w, args, dev, .prim 0, []⟩ ∧ 6 ≤ s.i2c.length ∧ s.schedule = List.replicate 7 .cha ++ q) ∧
    (∃ (s : State) (w : Word) (args : Quad) (q : List Agent),
      s.b.seq = .exec ⟨w, args, ⟨0, 0⟩, []⟩ ∧ 751 ≤ s.owline.length ∧ s.schedule = List.replicate 3787 .chb ++ q) :=
  ⟨answered_turns_a 6 7, answered_turns_b 751 3787⟩

end Sys2Proof.Tests
end

section
/-! Reasoning rules for a turn of one channel, shared by the two statements below. -/

namespace Sys2Proof.Machine

/-! ### One channel step, by where the sequencer stands -/

/-- What an action does to the state as primitive `k` of the command on channel A. -/
def ActA.perform (e : ExecA) (k : Nat) : ActA → State → State
  | .read addr n => memRead e k addr n
  | .write addr bytes => memWrite e k addr bytes
  | .done c => completeA c
  | .raise code => raiseA code

/-- What an action does to the state for the command on channel B. -/
def ActB.perform (e : ExecB) : ActB → State → State
  | .slot ops => slotStep ops e
  | .bus v => slotStep (writeByteOps v) e
  | .done c => completeB c
  | .raise code => raiseB code

theorem stepA_idle (next : ExecA → Nat → ActA) {s : State} (hs : s.a.seq = .idle) : stepA next s = s := by
  simp [stepA, hs]

theorem stepA_raised (next : ExecA → Nat → ActA) {s : State} {e : ExecA} {code : ErrCode}
    (hs : s.a.seq = .exec e) (hp : e.phase = .raised code) : stepA next s = raiseA code s := by
  simp [stepA, hs, hp]

theorem stepA_prim (next : ExecA → Nat → ActA) {s : State} {e : ExecA} {k : Nat}
    (hs : s.a.seq = .exec e) (hp : e.phase = .prim k) : stepA next s = (next e k).perform e k s := by
  simp only [stepA, hs, hp]
  cases next e k <;> rfl

theorem stepB_idle (next : ExecB → ActB) {s : State} (hs : s.b.seq = .idle) : stepB next s = s := by
  simp [stepB, hs]

theorem stepB_exec (next : ExecB → ActB) {s : State} {e : ExecB} (hs : s.b.seq = .exec e) :
    stepB next s = (next e).perform e s := by
  simp only [stepB, hs]
  cases next e <;> rfl

/-! ### Which step an instruction is -/

/-- `i` is the channel-A command that does `next` where it stands. Of the state, `next` sees only channel A. -/
def IsStepA (i : Instr) (next : ChanA → ExecA → Nat → ActA) : Prop :=
  ∀ s, exec i s = .next (stepA (next s.a) s)

/-- `i` is the channel-B command, or the single-wire command byte, that does `next` where it stands. -/
def IsStepB (i : Instr) (next : ExecB → ActB) : Prop :=
  ∀ s, exec i s = .next (stepB next s)

/-- One `next` for every state, where `exec_channelA` gives one for each: a step on two states can be compared. -/
theorem exists_isStepA_of_place (i : Instr) (h : i.place = .channel .a) : ∃ next, IsStepA i next := by
  cases i with
  | aId => exact ⟨fun _ => idNext, fun _ => rfl⟩
  | aSrst => exact ⟨fun _ => srstNext, fun _ => rfl⟩
  | aLdcal => exact ⟨fun c => ldcalNext c.regs.valid, fun _ => rfl⟩
  | aCfg => exact ⟨fun _ => cfgNext, fun _ => rfl⟩
  | aStat => exact ⟨fun _ => statNext, fun _ => rfl⟩
  | aRdraw => exact ⟨fun _ => rdrawNext, fun _ => rfl⟩
  | aCompt => exact ⟨comptNext, fun _ => rfl⟩
  | aCompp => exact ⟨comppNext, fun _ => rfl⟩
  | aCompp64 => exact ⟨compp64Next, fun _ => rfl⟩
  | aComph => exact ⟨comphNext, fun _ => rfl⟩
  | aComphf => exact ⟨comphfNext, fun _ => rfl⟩
  | aEst => exact ⟨fun _ => estNext, fun _ => rfl⟩
  | _ => cases h

/-- Every other instruction is a step of channel B; a single-wire command byte is the one that goes on sending it. -/
theorem exists_isStepB_of_place (i : Instr) (h : i.place ≠ .channel .a) : ∃ next, IsStepB i next := by
  cases i with
  | bOwrst => exact ⟨owrstNext, fun _ => rfl⟩
  | bOwwbit => exact ⟨owwbitNext, fun _ => rfl⟩
  | bOwrbit => exact ⟨owrbitNext, fun _ => rfl⟩
  | bOwwbyte => exact ⟨owwbyteNext, fun _ => rfl⟩
  | bOwrbyte => exact ⟨owrbyteNext, fun _ => rfl⟩
  | bOwinit => exact ⟨owinitNext, fun _ => rfl⟩
  | bOwconv => exact ⟨owconvNext, fun _ => rfl⟩
  | bOwrsp => exact ⟨owrspNext, fun _ => rfl⟩
  | bOwdec => exact ⟨owdecNext, fun _ => rfl⟩
  | bCrc8 len => exact ⟨crc8Next len, fun _ => rfl⟩
  | owSkipRom => exact ⟨fun _ => .bus 0xCC, fun _ => rfl⟩
  | owConvertT => exact ⟨fun _ => .bus 0x44, fun _ => rfl⟩
  | owReadScratchpad => exact ⟨fun _ => .bus 0xBE, fun _ => rfl⟩
  | owWriteScratchpad => exact ⟨fun _ => .bus 0x4E, fun _ => rfl⟩
  | _ => exact absurd rfl h

/-! ### What each channel fetches -/

theorem mem_of_lookup_eq_some {α β : Type} [BEq α] [LawfulBEq α] {l : List (α × β)} {x : α} {y : β}
    (h : l.lookup x = some y) : (x, y) ∈ l := by
  obtain ⟨l₁, l₂, rfl, _⟩ := List.lookup_eq_some_iff.mp h
  simp

theorem place_of_mem_opcodeMap (ch : Channel) (len : Nat) :
    ∀ x ∈ opcodeMap ch len, x.2.place = .channel ch := by
  cases ch <;> simp [opcodeMap, opcodeMapA, opcodeMapB, Instr.place]

theorem place_of_mem_busByteMap : ∀ x ∈ busByteMap, x.2.place = .bus := by
  simp [busByteMap, Instr.place]

theorem place_of_decode {ch : Channel} {w : Word} {i : Instr} (h : decode ch w = .ok i) : i.place = .channel ch := by
  unfold decode at h
  split at h
  · cases h
  · split at h
    · cases h
    next j hj =>
      split at h
      · cases h
      · cases h
        exact place_of_mem_opcodeMap ch _ _ (mem_of_lookup_eq_some hj)

theorem place_of_decodeBus {v : Byte} {i : Instr} (h : decodeBus v = .ok i) : i.place = .bus := by
  unfold decodeBus at h
  split at h
  · cases h
  next j hj =>
    cases h
    exact place_of_mem_busByteMap _ (mem_of_lookup_eq_some hj)

/-- A channel-B command runs as itself, or as a single-wire command byte it sends. -/
theorem place_currentB (i : Instr) (e : ExecB) :
    (currentB i e).place = i.place ∨ (currentB i e).place = .bus := by
  unfold currentB
  split
  · exact .inl rfl
  · split
    next hbus => exact .inr (place_of_decodeBus hbus)
    · exact .inl rfl

theorem fetchA_place {s : State} {i : Instr} (h : fetchA s = .instr i) : i.place = .channel .a := by
  unfold fetchA at h
  split at h
  · cases h
  · split at h
    · cases h
    next hd =>
      cases h
      exact place_of_decode hd

theorem fetchB_place {s : State} {i : Instr} (h : fetchB s = .instr i) : i.place ≠ .channel .a := by
  unfold fetchB at h
  split at h
  · cases h
  next e _ =>
    split at h
    · cases h
    next j hd =>
      cases h
      rcases place_currentB j e with hp | hp <;> simp [hp, place_of_decode hd]

end Sys2Proof.Machine
end

section
/-! O59. A channel's turn is a function of that channel and its oracle alone: what it puts in their place is the same
whatever stands on the other side. Two such turns write disjoint parts of the state, so they commute. -/

namespace Sys2Proof.Machine

/-- `s` with channel A and the answers the I2CDEV oracle will give replaced. -/
def State.withSideA (s : State) (a : ChanA) (i2c : List I2cAnswer) : State := { s with a := a, i2c := i2c }

/-- `s` with channel B and the levels the OWLINE oracle will show replaced. -/
def State.withSideB (s : State) (b : ChanB) (owline : List Bool) : State := { s with b := b, owline := owline }

/-- Updates of the two sides of the state commute. -/
theorem withSideA_withSideB (s : State) (a : ChanA) (q : List I2cAnswer) (b : ChanB) (o : List Bool) :
    (s.withSideA a q).withSideB b o = (s.withSideB b o).withSideA a q := rfl

/-- `f` replaces side A of the state, by values that do not depend on side B. -/
def LocalToA (f : State → State) : Prop :=
  ∀ s : State, ∃ a q, ∀ b o, f (s.withSideB b o) = (s.withSideB b o).withSideA a q

/-- `f` replaces side B of the state, by values that do not depend on side A. -/
def LocalToB (f : State → State) : Prop :=
  ∀ s : State, ∃ b o, ∀ a q, f (s.withSideA a q) = (s.withSideA a q).withSideB b o

/-! ### Channel A -/

theorem completeA_local (c : CommitA) : LocalToA (completeA c) :=
  fun s => ⟨(completeA c s).a, s.i2c, fun _ _ => rfl⟩

theorem raiseA_local (code : ErrCode) : LocalToA (raiseA code) :=
  fun s => ⟨(raiseA code s).a, s.i2c, fun _ _ => rfl⟩

theorem memRead_local (e : ExecA) (k : Nat) (addr : Byte) (n : Nat) : LocalToA (memRead e k addr n) := by
  intro s
  refine ⟨(memRead e k addr n s).a, (memRead e k addr n s).i2c, fun b o => ?_⟩
  cases h : s.i2c <;> simp [memRead, State.withSideA, State.withSideB, h]

theorem memWrite_local (e : ExecA) (k : Nat) (addr : Byte) (bytes : List Byte) :
    LocalToA (memWrite e k addr bytes) := by
  intro s
  refine ⟨(memWrite e k addr bytes s).a, (memWrite e k addr bytes s).i2c, fun b o => ?_⟩
  cases h : s.i2c <;> simp [memWrite, State.withSideA, State.withSideB, h]

theorem ActA.perform_local (e : ExecA) (k : Nat) (act : ActA) : LocalToA (act.perform e k) := by
  cases act with
  | read addr n => exact memRead_local e k addr n
  | write addr bytes => exact memWrite_local e k addr bytes
  | done c => exact completeA_local c
  | raise code => exact raiseA_local code

theorem stepA_local (next : ExecA → Nat → ActA) : LocalToA (stepA next) := by
  intro s
  cases hs : s.a.seq with
  | idle => exact ⟨s.a, s.i2c, fun b o => stepA_idle (s := s.withSideB b o) next hs⟩
  | exec e =>
    cases hp : e.phase with
    | raised code =>
      obtain ⟨a, q, h⟩ := raiseA_local code s
      exact ⟨a, q, fun b o => (stepA_raised (s := s.withSideB b o) next hs hp).trans (h b o)⟩
    | prim k =>
      obtain ⟨a, q, h⟩ := (next e k).perform_local e k s
      exact ⟨a, q, fun b o => (stepA_prim (s := s.withSideB b o) next hs hp).trans (h b o)⟩

/-- A turn of channel A answers, and is local to side A. -/
theorem turn_cha_local (s : State) :
    ∃ a q, ∀ b o, turn .cha (s.withSideB b o) = .next ((s.withSideB b o).withSideA a q) := by
  have hturn : ∀ b o, turn .cha (s.withSideB b o) =
      runFetched (fetchA s) (raiseA .illegalCommand (s.withSideB b o)) (s.withSideB b o) := fun _ _ => rfl
  simp only [hturn]
  cases hf : fetchA s with
  | idle => exact ⟨s.a, s.i2c, fun _ _ => rfl⟩
  | illegal =>
    obtain ⟨a, q, h⟩ := raiseA_local .illegalCommand s
    exact ⟨a, q, fun b o => congrArg _ (h b o)⟩
  | instr i =>
    obtain ⟨next, hexec⟩ := exists_isStepA_of_place i (fetchA_place hf)
    obtain ⟨a, q, h⟩ := stepA_local (next s.a) s
    exact ⟨a, q, fun b o => (hexec (s.withSideB b o)).trans (congrArg _ (h b o))⟩

/-! ### Channel B -/

theorem completeB_local (c : CommitB) : LocalToB (completeB c) :=
  fun s => ⟨(completeB c s).b, s.owline, fun _ _ => rfl⟩

theorem raiseB_local (code : ErrCode) : LocalToB (raiseB code) :=
  fun s => ⟨(raiseB code s).b, s.owline, fun _ _ => rfl⟩

theorem primB_local (p : PrimB) (e : ExecB) (phase : PhaseB) : LocalToB (primB p e phase) := by
  intro s
  refine ⟨(primB p e phase s).b, (primB p e phase s).owline, fun a q => ?_⟩
  cases p with
  | driveLow t => rfl
  | release t => rfl
  | wait t => rfl
  | sample => cases h : s.owline <;> simp [primB, State.withSideA, State.withSideB, h]

theorem slotStep_local (ops : List PrimB) (e : ExecB) : LocalToB (slotStep ops e) := by
  intro s
  unfold slotStep
  cases ops[e.phase.sub]? with
  | none =>
    exact ⟨{ s.b with seq := .exec { e with phase := e.phase.advance ops.length } }, s.owline, fun _ _ => rfl⟩
  | some p => exact primB_local p e _ s

theorem ActB.perform_local (e : ExecB) (act : ActB) : LocalToB (act.perform e) := by
  cases act with
  | slot ops => exact slotStep_local ops e
  | bus v => exact slotStep_local (writeByteOps v) e
  | done c => exact completeB_local c
  | raise code => exact raiseB_local code

theorem stepB_local (next : ExecB → ActB) : LocalToB (stepB next) := by
  intro s
  cases hs : s.b.seq with
  | idle => exact ⟨s.b, s.owline, fun a q => stepB_idle (s := s.withSideA a q) next hs⟩
  | exec e =>
    obtain ⟨b, o, h⟩ := (next e).perform_local e s
    exact ⟨b, o, fun a q => (stepB_exec (s := s.withSideA a q) next hs).trans (h a q)⟩

/-- A turn of channel B answers, and is local to side B. -/
theorem turn_chb_local (s : State) :
    ∃ b o, ∀ a q, turn .chb (s.withSideA a q) = .next ((s.withSideA a q).withSideB b o) := by
  have hturn : ∀ a q, turn .chb (s.withSideA a q) =
      runFetched (fetchB s) (raiseB .illegalCommand (s.withSideA a q)) (s.withSideA a q) := fun _ _ => rfl
  simp only [hturn]
  cases hf : fetchB s with
  | idle => exact ⟨s.b, s.owline, fun _ _ => rfl⟩
  | illegal =>
    obtain ⟨b, o, h⟩ := raiseB_local .illegalCommand s
    exact ⟨b, o, fun a q => congrArg _ (h a q)⟩
  | instr i =>
    obtain ⟨next, hexec⟩ := exists_isStepB_of_place i (fetchB_place hf)
    obtain ⟨b, o, h⟩ := stepB_local next s
    exact ⟨b, o, fun a q => (hexec (s.withSideA a q)).trans (congrArg _ (h a q))⟩

/-- Settles O59: each turn is local to its own side (R5), so the common end state is `s` with both sides replaced. -/
theorem channelsCommute : Obligations.ChannelsCommute := by
  intro s
  obtain ⟨a, q, hA⟩ := turn_cha_local s
  obtain ⟨b, o, hB⟩ := turn_chb_local s
  refine ⟨s.withSideA a q, s.withSideB b o, (s.withSideA a q).withSideB b o,
    hA s.b s.owline, hB s.a s.i2c, hB a q, ?_, rfl, rfl, rfl, rfl⟩
  rw [withSideA_withSideB]
  exact hA b o

end Sys2Proof.Machine
end

section
/-! O27. A transaction that fails takes two steps, whichever it is: the one that makes it and leaves the command at the
raise of its code, and the one that ends the command. What is particular to a command is which transaction it makes. -/

namespace Sys2Proof.Machine

/-- The answer is a failure, and stands for the code (R11). -/
def I2cAnswer.FailsWith (ans : I2cAnswer) (code : ErrCode) : Prop :=
  (ans = .addrNack ∧ code = .deviceNotFound) ∨ (ans = .fail ∧ code = .transportError)

theorem I2cAnswer.FailsWith.sized {ans : I2cAnswer} {code : ErrCode} (h : ans.FailsWith code) (n : Nat) :
    ans.sized n = ans := by
  rcases h with ⟨rfl, _⟩ | ⟨rfl, _⟩ <;> rfl

theorem I2cAnswer.FailsWith.answered {ans : I2cAnswer} {code : ErrCode} (h : ans.FailsWith code) (e : ExecA) (k : Nat)
    (staged : List (List Byte)) : e.answered k staged ans = { e with phase := .raised code } := by
  rcases h with ⟨rfl, rfl⟩ | ⟨rfl, rfl⟩ <;> rfl

/-- The bus event of an action that is answered `ans`, as the trace records it; `none` where it is no transaction. -/
def ActA.event (e : ExecA) (ans : I2cAnswer) : ActA → Option EventA
  | .read addr n => some (.memRead e.dev addr n ans)
  | .write addr bytes => some (.memWrite e.dev addr bytes ans)
  | .done _ => none
  | .raise _ => none

/-- `s` with channel A's command at the raise of `code`, its last transaction recorded as `ev`. -/
def State.raisingA (s : State) (e : ExecA) (code : ErrCode) (ev : EventA) (rest : List I2cAnswer) : State :=
  { s with
    i2c := rest
    a := { s.a with trace := s.a.trace ++ [ev], seq := .exec { e with phase := .raised code } } }

/-- A transaction that fails is recorded and leaves the command at the raise of its code, with nothing staged. -/
theorem ActA.perform_failed {e : ExecA} {ans : I2cAnswer} {act : ActA} {ev : EventA} {code : ErrCode} {s : State}
    {rest : List I2cAnswer} (k : Nat) (hev : act.event e ans = some ev) (hi2c : s.i2c = ans :: rest)
    (hfail : ans.FailsWith code) : act.perform e k s = s.raisingA e code ev rest := by
  cases act with
  | read addr n =>
    cases hev
    simp [ActA.perform, memRead, hi2c, hfail.sized, hfail.answered, State.raisingA]
  | write addr bytes =>
    cases hev
    simp [ActA.perform, memWrite, hi2c, hfail.sized, hfail.answered, State.raisingA]
  | done c => cases hev
  | raise c => cases hev

/-- From the raise of a code, the next step ends the command, and only `ERR`, `BUSY` and `DONE` change (R608). -/
theorem stepA_raisingA (next : ExecA → Nat → ActA) (s : State) (e : ExecA) (code : ErrCode) (ev : EventA)
    (rest : List I2cAnswer) :
    stepA next (s.raisingA e code ev rest) =
      s.endA { s.a.regs with done := true, err := code } s.a.cal (s.a.trace ++ [ev]) rest :=
  stepA_raised next rfl rfl

/-- Any channel-A command whose transaction fails ends with the code in two steps. -/
theorem IsStepA.ends_of_failed {i : Instr} {next : ChanA → ExecA → Nat → ActA} (hi : IsStepA i next) {s : State}
    {e : ExecA} {k : Nat} {ev : EventA} {ans : I2cAnswer} {code : ErrCode} {rest : List I2cAnswer}
    (hs : s.a.seq = .exec e) (hp : e.phase = .prim k) (hev : (next s.a e k).event e ans = some ev)
    (hi2c : s.i2c = ans :: rest) (hfail : ans.FailsWith code) :
    ∃ s1, exec i s = .next s1 ∧
      exec i s1 = .next (s.endA { s.a.regs with done := true, err := code } s.a.cal (s.a.trace ++ [ev]) rest) := by
  refine ⟨s.raisingA e code ev rest, ?_, ?_⟩
  · rw [hi s, stepA_prim (next s.a) hs hp, ActA.perform_failed k hev hi2c hfail]
  · rw [hi, stepA_raisingA]

/-- `ctrl_meas` is written whole: nothing of the byte read is kept (R230, R105). -/
theorem ctrlMeas_eq (old : Byte) (c : SensorConfig) :
    ctrlMeas old c = c.osrsT.setWidth 8 <<< 5 ||| c.osrsP.setWidth 8 <<< 2 ||| c.mode.setWidth 8 := by
  simp [ctrlMeas]

/-- Settles O27: each row of R101's transactions is what its command does next, and any of them that fails ends the
command by `ends_of_failed`. -/
theorem busFailureEndsCommand : Obligations.BusFailureEndsCommand := by
  intro s e i k ev ans code rest hmem hs hp hcal hcfg hi2c hfail
  suffices hnext : ∃ next, IsStepA i next ∧ (next s.a e k).event e ans = some ev by
    obtain ⟨next, hi, hev⟩ := hnext
    exact hi.ends_of_failed hs hp hev hi2c hfail
  simp only [List.mem_cons, List.not_mem_nil, or_false, Prod.mk.injEq] at hmem
  rcases hmem with ⟨rfl, rfl, rfl⟩ | ⟨rfl, rfl, rfl⟩ | ⟨rfl, rfl, rfl⟩ | ⟨rfl, rfl, rfl⟩ | ⟨rfl, rfl, rfl⟩ |
    ⟨rfl, rfl, rfl⟩ | ⟨rfl, rfl, rfl⟩ | ⟨rfl, rfl, rfl⟩ | ⟨rfl, rfl, rfl⟩ | ⟨rfl, rfl, rfl⟩ | ⟨rfl, rfl, rfl⟩ |
    ⟨rfl, rfl, rfl⟩ | ⟨rfl, rfl, rfl⟩
  · exact ⟨fun _ => idNext, fun _ => rfl, rfl⟩
  · exact ⟨fun _ => srstNext, fun _ => rfl, rfl⟩
  · exact ⟨fun c => ldcalNext c.regs.valid, fun _ => rfl, by simp [ldcalNext, hcal rfl, ActA.event]⟩
  · exact ⟨fun c => ldcalNext c.regs.valid, fun _ => rfl, rfl⟩
  · exact ⟨fun c => ldcalNext c.regs.valid, fun _ => rfl, rfl⟩
  · exact ⟨fun _ => cfgNext, fun _ => rfl, by simp [cfgNext, configArg, hcfg rfl, ActA.event]⟩
  · exact ⟨fun _ => cfgNext, fun _ => rfl, rfl⟩
  · exact ⟨fun _ => cfgNext, fun _ => rfl, rfl⟩
  · exact ⟨fun _ => cfgNext, fun _ => rfl, by simp [cfgNext, ctrlMeas_eq, configArg, unpackConfig, ActA.event]⟩
  · exact ⟨fun _ => cfgNext, fun _ => rfl, rfl⟩
  · exact ⟨fun _ => cfgNext, fun _ => rfl, rfl⟩
  · exact ⟨fun _ => statNext, fun _ => rfl, rfl⟩
  · exact ⟨fun _ => rdrawNext, fun _ => rfl, rfl⟩

end Sys2Proof.Machine
end

section
/-! O1, O3 to O10. The host's side of the window: what stands at an offset and how it reads, and what a host turn makes of
it (10_state.md sections 1 and 2). -/

namespace Sys2Proof.Machine

/-! ### What stands at an offset -/

/-- An offset is reserved, or stands in the layout of R30 with its register. -/
theorem regAt_cases (offset : Nat) : regAt offset = .reserved ∨ (offset, regAt offset) ∈ windowMap := by
  unfold regAt
  cases h : windowMap.lookup offset with
  | none => exact .inl rfl
  | some r => exact .inr (mem_of_lookup_eq_some h)

theorem offset_of_regAt_cmd {offset : Nat} {ch : Channel} (h : regAt offset = .cmd ch) : offset = cmdOffset ch := by
  have hmap : ∀ x ∈ windowMap, ∀ ch, x.2 = .cmd ch → x.1 = cmdOffset ch := by
    simp [windowMap, cmdOffset]
  rcases regAt_cases offset with hr | hmem
  · rw [h] at hr
    cases hr
  · exact hmap _ hmem ch h

/-- A host write to it is ignored (R32). -/
def Reg.readOnly : Reg → Bool
  | .cmd _ | .status _ | .ctrl | .arg _ _ => false
  | .res _ _ | .coef _ | .sp _ | .reserved => true

theorem writeReg_of_readOnly {r : Reg} (h : r.readOnly = true) (v : Word) (s : State) : writeReg r v s = s := by
  cases r with
  | res ch i => rfl
  | coef c => rfl
  | sp i => rfl
  | reserved => rfl
  | _ => cases h

/-- The offsets R30 calls writable. -/
def writableOffsets : List Nat :=
  [0x000, 0x004, 0x008, 0x010, 0x014, 0x018, 0x01C, 0x100, 0x104, 0x110, 0x114, 0x118, 0x11C]

theorem regAt_readOnly {offset : Nat} (h : offset ∉ writableOffsets) : (regAt offset).readOnly = true := by
  have hmap : ∀ x ∈ windowMap, x.1 ∉ writableOffsets → x.2.readOnly = true := by decide
  rcases regAt_cases offset with hr | hmem
  · rw [hr]
    rfl
  · exact hmap _ hmem h

/-- The offsets at which a read can show other than 0 (R30, R32). -/
abbrev ReadableOffset (offset : Nat) : Prop :=
  offset ∈ [0x004, 0x008, 0x104] ∨ (0x010 ≤ offset ∧ offset ≤ 0x02C) ∨ (0x040 ≤ offset ∧ offset ≤ 0x084) ∨
    (0x110 ≤ offset ∧ offset ≤ 0x12C) ∨ (0x130 ≤ offset ∧ offset ≤ 0x138)

/-- Elsewhere stands `x_CMD` or nothing. -/
theorem readWindow_eq_zero {offset : Nat} (s : State) (h : ¬ ReadableOffset offset) : readWindow offset s = 0 := by
  have hmap : ∀ x ∈ windowMap, ¬ ReadableOffset x.1 → x.2 = .cmd .a ∨ x.2 = .cmd .b := by decide
  have hreg : regAt offset = .reserved ∨ regAt offset = .cmd .a ∨ regAt offset = .cmd .b :=
    (regAt_cases offset).imp_right fun hmem => hmap _ hmem h
  unfold readWindow
  rcases hreg with hr | hr | hr <;> rw [hr] <;> rfl

/-! ### The fields of a register -/

theorem getLsbD_append_low {n m i : Nat} (x : BitVec n) (y : BitVec m) (h : i < m) :
    (x ++ y).getLsbD i = y.getLsbD i := by
  simp [BitVec.getLsbD_append, h]

theorem getLsbD_ofBool_append {m : Nat} (b : Bool) (y : BitVec m) : (BitVec.ofBool b ++ y).getLsbD m = b := by
  rw [BitVec.getLsbD_append]
  simp

/-- The fields of the status word, from bit 0 upwards (R34). -/
theorem statusWord_fields (busy : Bool) (r : Regs) :
    let w := statusWord busy r
    w.getLsbD 0 = busy ∧ w.getLsbD 1 = r.done ∧ w.getLsbD 2 = r.valid ∧ w.getLsbD 3 = r.ovr ∧
    w.extractLsb' 4 4 = 0 ∧ w.extractLsb' 8 8 = r.err.toByte ∧ w.extractLsb' 16 8 = r.lastop ∧
    w.extractLsb' 24 8 = 0 := by
  have hflags : ∀ i < 4, (statusWord busy r).getLsbD i =
      (BitVec.ofBool r.ovr ++ (BitVec.ofBool r.valid ++ (BitVec.ofBool r.done ++ BitVec.ofBool busy))).getLsbD i :=
    fun i hi => (getLsbD_append_low _ _ (by omega)).trans ((getLsbD_append_low _ _ (by omega)).trans
      ((getLsbD_append_low _ _ (by omega)).trans (getLsbD_append_low _ _ hi)))
  refine ⟨?busy, ?done, ?valid, ?ovr, ?low, ?err, ?lastop, ?high⟩
  case high => exact BitVec.extractLsb'_append_eq_left
  case lastop => exact (BitVec.extractLsb'_append_eq_of_add_le (by decide)).trans BitVec.extractLsb'_append_eq_left
  case err =>
    exact (BitVec.extractLsb'_append_eq_of_add_le (by decide)).trans
      ((BitVec.extractLsb'_append_eq_of_add_le (by decide)).trans BitVec.extractLsb'_append_eq_left)
  case low =>
    exact (BitVec.extractLsb'_append_eq_of_add_le (by decide)).trans
      ((BitVec.extractLsb'_append_eq_of_add_le (by decide)).trans
        ((BitVec.extractLsb'_append_eq_of_add_le (by decide)).trans BitVec.extractLsb'_append_eq_left))
  case ovr => exact (hflags 3 (by decide)).trans (getLsbD_ofBool_append _ _)
  case valid =>
    exact (hflags 2 (by decide)).trans ((getLsbD_append_low _ _ (by decide)).trans (getLsbD_ofBool_append _ _))
  case done =>
    exact (hflags 1 (by decide)).trans ((getLsbD_append_low _ _ (by decide)).trans
      ((getLsbD_append_low _ _ (by decide)).trans (getLsbD_ofBool_append _ _)))
  case busy =>
    exact (hflags 0 (by decide)).trans ((getLsbD_append_low _ _ (by decide)).trans
      ((getLsbD_append_low _ _ (by decide)).trans ((getLsbD_append_low _ _ (by decide)).trans (by simp))))

/-- A narrower value zero-extended to a register shows itself as a natural number. -/
theorem toInt_zext32 {n : Nat} (v : BitVec n) (h : n < 32) : (zext32 v).toInt = v.toNat := by
  have hlt : v.toNat < 2 ^ 31 := v.isLt.trans_le (Nat.pow_le_pow_right (by decide) (by omega))
  have hnat : (zext32 v).toNat = v.toNat := BitVec.toNat_setWidth_of_le (by omega)
  rw [BitVec.toInt_eq_toNat_of_lt (by omega), hnat]

theorem toInt_sext32 {n : Nat} (v : BitVec n) (h : n ≤ 32) : (sext32 v).toInt = v.toInt :=
  BitVec.toInt_signExtend_of_le h

theorem toNat_zext32 {n : Nat} (v : BitVec n) (h : n ≤ 32) : (zext32 v).toNat = v.toNat :=
  BitVec.toNat_setWidth_of_le h

/-! ### The statements on what the window shows -/

/-- Settles O1: at each offset of the layout the read is evaluated, and every other offset is reserved. -/
theorem resetStateValues : Obligations.ResetStateValues := by
  have hmap : ∀ x ∈ windowMap, readReg x.2 State.reset = if x.1 = 0x008 then 0x76 else 0 := by decide
  refine ⟨fun offset => ?_, rfl, rfl, rfl, rfl, rfl⟩
  rcases regAt_cases offset with hr | hmem
  · have hne : offset ≠ 0x008 := by
      rintro rfl
      cases hr
    rw [readWindow, hr, if_neg hne]
    rfl
  · exact hmap _ hmem

/-- Settles O3: the register at `x_STATUS` is that channel's status word. -/
theorem statusWordLayout : Obligations.StatusWordLayout := by
  intro s ch
  have hread : readWindow (statusOffset ch) s = s.status ch := by cases ch <;> rfl
  rw [hread]
  cases ch with
  | a => exact statusWord_fields s.a.seq.busy s.a.regs
  | b => exact statusWord_fields s.b.seq.busy s.b.regs

/-- Settles O9: at each offset its register, and a coefficient widened to the register's 32 bits. -/
theorem registerWindowLayout : Obligations.RegisterWindowLayout := by
  intro s
  refine ⟨rfl, rfl, rfl, rfl, rfl, rfl, rfl, rfl, rfl, rfl, rfl, rfl, rfl, rfl, rfl, rfl, toNat_zext32 _ (by decide),
    toInt_zext32 _ (by decide), toInt_sext32 _ (by decide), toInt_sext32 _ (by decide),
    fun k h1 h9 => ?_, fun k h1 h6 => ?_, rfl, rfl, toNat_zext32 _ (by decide)⟩
  · interval_cases k
    · exact toInt_zext32 _ (by decide)
    all_goals exact toInt_sext32 _ (by decide)
  · interval_cases k
    · exact toInt_zext32 _ (by decide)
    · exact toInt_sext32 _ (by decide)
    · exact toInt_zext32 _ (by decide)
    all_goals exact toInt_sext32 _ (by decide)

/-! ### The turns of the host -/

/-- `s` after the host has taken its turn off the schedule and a statement off its program. -/
def State.hostMoved (s : State) (q : List Agent) (p : List HostStmt) : State :=
  { s with schedule := q, host := { s.host with program := p } }

theorem step_host {s : State} {q : List Agent} (hq : s.schedule = .host :: q) :
    step s = stepHost { s with schedule := q } := by
  simp [step, hq, turn]

theorem stepHost_wr {s : State} {p : List HostStmt} {width offset : Nat} {v : Word}
    (hp : s.host.program = .wr width offset v :: p) :
    stepHost s = hostAccess width offset (writeWindow offset v (s.hostAt p)) := by
  simp [stepHost, hp]

theorem stepHost_rd {s : State} {p : List HostStmt} {width offset : Nat}
    (hp : s.host.program = .rd width offset :: p) :
    stepHost s = hostAccess width offset ((s.hostAt p).hostSees offset (readWindow offset s)) := by
  simp [stepHost, hp]

/-- `poll` reads the status and stays at itself while its bit 0, `BUSY`, is 1 (R176). -/
theorem stepHost_poll {s : State} {p : List HostStmt} {ch : Channel} (hp : s.host.program = .poll ch :: p) :
    stepHost s = .next ((s.hostAt (if (s.status ch).getLsbD 0 then .poll ch :: p else p)).hostSees
      (statusOffset ch) (s.status ch)) := by
  simp [stepHost, hp]

theorem hostAccess_ok {offset : Nat} (t : State) (halign : offset % 4 = 0) (hlt : offset < 0x200) :
    hostAccess 32 offset t = .next t := by
  have hin : ¬ Config.windowSize ≤ offset := Nat.not_le.mpr hlt
  simp [hostAccess, halign, hin]

theorem step_hostWrite {s : State} {q : List Agent} {p : List HostStmt} {offset : Nat} {v : Word}
    (hq : s.schedule = .host :: q) (hp : s.host.program = .wr 32 offset v :: p)
    (halign : offset % 4 = 0) (hlt : offset < 0x200) :
    step s = .next (writeReg (regAt offset) v (s.hostMoved q p)) := by
  rw [step_host hq, stepHost_wr (s := { s with schedule := q }) hp]
  exact hostAccess_ok _ halign hlt

/-! ### The statements on what the host's turns do -/

/-- Settles O4: the write of an idle channel's `x_CMD` is acceptance, which makes no check of the word. -/
theorem hostCommandAccepted : Obligations.HostCommandAccepted := by
  refine ⟨fun s w p q hq hp hs => ?_, fun s w p q hq hp hs => ?_⟩
  · rw [step_hostWrite hq hp rfl (by decide)]
    rcases writeCmdA_cases w (s.hostMoved q p) with ⟨_, h⟩ | ⟨e, he, _⟩
    · exact congrArg _ h
    · cases hs.symm.trans he
  · rw [step_hostWrite hq hp rfl (by decide)]
    rcases writeCmdB_cases w (s.hostMoved q p) with ⟨_, h⟩ | ⟨e, he, _⟩
    · exact congrArg _ h
    · cases hs.symm.trans he

/-- Settles O5: the same write on a busy channel only sets `OVR`. -/
theorem hostCommandDropped : Obligations.HostCommandDropped := by
  refine ⟨fun s w p q e hq hp hs => ?_, fun s w p q e hq hp hs => ?_⟩
  · rw [step_hostWrite hq hp rfl (by decide)]
    rcases writeCmdA_cases w (s.hostMoved q p) with ⟨hidle, _⟩ | ⟨_, _, h⟩
    · cases hs.symm.trans hidle
    · exact congrArg _ h
  · rw [step_hostWrite hq hp rfl (by decide)]
    rcases writeCmdB_cases w (s.hostMoved q p) with ⟨hidle, _⟩ | ⟨_, _, h⟩
    · cases hs.symm.trans hidle
    · exact congrArg _ h

/-- A write to `x_STATUS` moves `OVR` alone: bit 3 clears it (R34, R39). -/
theorem writeStatus_eq (v : Word) (r : Regs) :
    r.writeStatus v = { r with ovr := if v.getLsbD 3 then false else r.ovr } := by
  unfold Regs.writeStatus
  split <;> rfl

/-- Settles O6: each offset's register, and what `writeReg` does to it; only `x_STATUS` looks at the word. -/
theorem hostRegisterWrites : Obligations.HostRegisterWrites := by
  intro s v p q offset hq hp h
  have hstep : ∀ r, regAt offset = r → offset % 4 = 0 → offset < 0x200 →
      step s = .next (writeReg r v (s.hostMoved q p)) := by
    rintro r rfl halign hlt
    exact step_hostWrite hq hp halign hlt
  refine ⟨?status_a, ?status_b, ?ctrl, ?arg_a0, ?arg_a1, ?arg_a2, ?arg_a3, ?arg_b0, ?arg_b1, ?arg_b2, ?arg_b3⟩ <;>
    rintro rfl
  case status_a =>
    rw [hstep (.status .a) rfl rfl (by decide), writeReg, State.mapRegs, writeStatus_eq]
    rfl
  case status_b =>
    rw [hstep (.status .b) rfl rfl (by decide), writeReg, State.mapRegs, writeStatus_eq]
    rfl
  all_goals exact hstep _ rfl rfl (by decide)

/-- Settles O7: at every other offset stands a register that ignores writes. -/
theorem hostIgnoredWrites : Obligations.HostIgnoredWrites := by
  intro s v p q offset hq hp halign hlt hoffset
  rw [step_hostWrite hq hp halign hlt, writeReg_of_readOnly (regAt_readOnly hoffset)]
  rfl

/-- Settles O8: a read or a poll only adds to what the host has seen, and what is not readable reads 0. -/
theorem hostReads : Obligations.HostReads := by
  refine ⟨fun s p q offset hq hp halign hlt => ?_, fun s offset h => readWindow_eq_zero s h,
    fun s ch p q hq hp => ?_⟩
  · rw [step_host hq, stepHost_rd (s := { s with schedule := q }) hp]
    exact hostAccess_ok _ halign hlt
  · rw [step_host hq, stepHost_poll (s := { s with schedule := q }) hp]
    cases ch <;> rfl

/-- Settles O10: the width is looked at before the alignment, and before anything is read or written. -/
theorem hostAccessRefused : Obligations.HostAccessRefused := by
  intro s p q width offset v hq hp
  have hstep : ∃ t, step s = hostAccess width offset t := by
    rw [step_host hq]
    rcases hp with hp | hp
    · exact ⟨_, stepHost_wr hp⟩
    · exact ⟨_, stepHost_rd hp⟩
  obtain ⟨t, ht⟩ := hstep
  rw [ht]
  exact ⟨fun hw => by simp [hostAccess, hw], fun hw ha => by simp [hostAccess, hw, ha]⟩

end Sys2Proof.Machine
end

section
/-! What one turn can make of a channel, said once for each channel: every rule about a single channel that all turns keep
is a case split over these. -/

namespace Sys2Proof.Machine

/-! ### What a command does next -/

/-- What a channel-A command does after `k` primitives (R200 to R350), as `nextB` says it of channel B; `none` for what is
no channel-A command. Of the state it sees channel A alone. -/
def nextA (i : Instr) (c : ChanA) (e : ExecA) (k : Nat) : Option ActA :=
  match i with
  | .aId => some (idNext e k)
  | .aSrst => some (srstNext e k)
  | .aLdcal => some (ldcalNext c.regs.valid e k)
  | .aCfg => some (cfgNext e k)
  | .aStat => some (statNext e k)
  | .aRdraw => some (rdrawNext e k)
  | .aCompt => some (comptNext c e k)
  | .aCompp => some (comppNext c e k)
  | .aCompp64 => some (compp64Next c e k)
  | .aComph => some (comphNext c e k)
  | .aComphf => some (comphfNext c e k)
  | .aEst => some (estNext e k)
  | .bOwrst | .bOwwbit | .bOwrbit | .bOwwbyte | .bOwrbyte => none
  | .bOwinit | .bOwconv | .bOwrsp | .bOwdec | .bCrc8 _ => none
  | .owSkipRom | .owConvertT | .owReadScratchpad | .owWriteScratchpad => none

/-- A channel-A command runs as the step that `nextA` names; `exists_isStepA_of_place` does not say which step it is. -/
theorem exec_nextA {i : Instr} (h : i.place = .channel .a) :
    ∃ next, IsStepA i next ∧ ∀ c e k, nextA i c e k = some (next c e k) := by
  cases i with
  | aId => exact ⟨fun _ => idNext, fun _ => rfl, fun _ _ _ => rfl⟩
  | aSrst => exact ⟨fun _ => srstNext, fun _ => rfl, fun _ _ _ => rfl⟩
  | aLdcal => exact ⟨fun c => ldcalNext c.regs.valid, fun _ => rfl, fun _ _ _ => rfl⟩
  | aCfg => exact ⟨fun _ => cfgNext, fun _ => rfl, fun _ _ _ => rfl⟩
  | aStat => exact ⟨fun _ => statNext, fun _ => rfl, fun _ _ _ => rfl⟩
  | aRdraw => exact ⟨fun _ => rdrawNext, fun _ => rfl, fun _ _ _ => rfl⟩
  | aCompt => exact ⟨comptNext, fun _ => rfl, fun _ _ _ => rfl⟩
  | aCompp => exact ⟨comppNext, fun _ => rfl, fun _ _ _ => rfl⟩
  | aCompp64 => exact ⟨compp64Next, fun _ => rfl, fun _ _ _ => rfl⟩
  | aComph => exact ⟨comphNext, fun _ => rfl, fun _ _ _ => rfl⟩
  | aComphf => exact ⟨comphfNext, fun _ => rfl, fun _ _ _ => rfl⟩
  | aEst => exact ⟨fun _ => estNext, fun _ => rfl, fun _ _ _ => rfl⟩
  | _ => cases h

theorem exec_of_decodeBus {v : Byte} {j : Instr} (h : decodeBus v = .ok j) (s : State) :
    exec j s = .next (stepBusByte v s) := by
  have hmap : ∀ x ∈ busByteMap, ∀ s, exec x.2 s = .next (stepBusByte x.1 s) := by
    intro x hx s
    simp only [busByteMap, List.mem_cons, List.not_mem_nil, or_false] at hx
    rcases hx with rfl | rfl | rfl | rfl <;> rfl
  unfold decodeBus at h
  split at h
  · cases h
  next hv =>
    cases h
    exact hmap _ (mem_of_lookup_eq_some hv) s

/-- What a channel-B turn runs does what `nextB` says of its command, whether that is the command itself or the
single-wire command byte it is sending (R170; log 13). -/
theorem exec_currentB {i : Instr} (hi : i.place = .channel .b) {s : State} {e : ExecB} (hs : s.b.seq = .exec e) :
    ∃ act, nextB i e = some act ∧ exec (currentB i e) s = .next (act.perform e s) := by
  obtain ⟨next, hnext, hexec⟩ := exec_channelB i hi s
  refine ⟨next e, hnext e, ?_⟩
  have hself : exec i s = .next ((next e).perform e s) := by rw [hexec, stepB_exec next hs]
  cases hb : busByteAt i e with
  | none => simpa only [currentB, hb] using hself
  | some v =>
    have hact : next e = .bus v := by
      unfold busByteAt at hb
      rw [hnext e] at hb
      split at hb
      next heq =>
        cases hb
        exact Option.some.inj heq
      · cases hb
    cases hv : decodeBus v with
    | error r => simpa only [currentB, hb, hv] using hself
    | ok j =>
      simp only [currentB, hb, hv]
      rw [exec_of_decodeBus hv, hact, stepBusByte, hs]
      rfl

/-- The primitives that an action of channel B sends; `none` where the action ends the command. -/
def ActB.ops : ActB → Option (List PrimB)
  | .slot ops => some ops
  | .bus v => some (writeByteOps v)
  | .done _ => none
  | .raise _ => none

/-! ### Why a running command ends with a code -/

/-- Channel A's turn raises `code`: the accepted word is no command (R155), or an answer has raised the code (R13), or the
command raises it itself. -/
def ChanA.raises (c : ChanA) (e : ExecA) (code : ErrCode) : Prop :=
  (code = .illegalCommand ∧ ∃ r, decode .a e.op = .error r) ∨
  ∃ i, decode .a e.op = .ok i ∧
    (e.phase = .raised code ∨ ∃ k, e.phase = .prim k ∧ nextA i c e k = some (.raise code))

/-- Channel B's turn raises `code`: the accepted word is no command, or the command raises it. -/
def ExecB.raises (e : ExecB) (code : ErrCode) : Prop :=
  (code = .illegalCommand ∧ ∃ r, decode .b e.op = .error r) ∨
  ∃ i, decode .b e.op = .ok i ∧ nextB i e = some (.raise code)

/-! ### The turns -/

/-- What a turn of an agent in the state `s` can make of channel A. -/
inductive TurnA (s : State) : Agent → ChanA → Prop where
  | kept (ag : Agent) : TurnA s ag s.a
  | reset : TurnA s .reset .reset
  | accept (w : Word) (rest : List HostStmt) (hp : s.host.program = .wr 32 0x000 w :: rest) (hs : s.a.seq = .idle) :
      TurnA s .host (acceptA w s).a
  | hostWrite (devaddr : BitVec 7) (arg : Quad) (ovr : Bool)
      (hovr : ovr = true → s.a.regs.ovr = true ∨ s.a.seq.busy = true) :
      TurnA s .host { s.a with devaddr := devaddr, regs := { s.a.regs with arg := arg, ovr := ovr } }
  | read (e : ExecA) (i : Instr) (k : Nat) (addr : Byte) (n : Nat) (hs : s.a.seq = .exec e)
      (hd : decode .a e.op = .ok i) (hk : e.phase = .prim k) (hn : nextA i s.a e k = some (.read addr n)) :
      TurnA s .cha (memRead e k addr n s).a
  | write (e : ExecA) (i : Instr) (k : Nat) (addr : Byte) (bytes : List Byte) (hs : s.a.seq = .exec e)
      (hd : decode .a e.op = .ok i) (hk : e.phase = .prim k) (hn : nextA i s.a e k = some (.write addr bytes)) :
      TurnA s .cha (memWrite e k addr bytes s).a
  | complete (e : ExecA) (i : Instr) (k : Nat) (c : CommitA) (hs : s.a.seq = .exec e) (hd : decode .a e.op = .ok i)
      (hk : e.phase = .prim k) (hn : nextA i s.a e k = some (.done c)) : TurnA s .cha (completeA c s).a
  | raise (e : ExecA) (code : ErrCode) (hs : s.a.seq = .exec e) (hr : s.a.raises e code) :
      TurnA s .cha (raiseA code s).a

/-- What a turn of an agent in the state `s` can make of channel B. -/
inductive TurnB (s : State) : Agent → ChanB → Prop where
  | kept (ag : Agent) : TurnB s ag s.b
  | reset : TurnB s .reset .reset
  | accept (w : Word) (rest : List HostStmt) (hp : s.host.program = .wr 32 0x100 w :: rest) (hs : s.b.seq = .idle) :
      TurnB s .host (acceptB w s).b
  | hostWrite (arg : Quad) (ovr : Bool) (hovr : ovr = true → s.b.regs.ovr = true ∨ s.b.seq.busy = true) :
      TurnB s .host { s.b with regs := { s.b.regs with arg := arg, ovr := ovr } }
  | slot (e : ExecB) (i : Instr) (act : ActB) (ops : List PrimB) (hs : s.b.seq = .exec e) (hd : decode .b e.op = .ok i)
      (hn : nextB i e = some act) (hops : act.ops = some ops) : TurnB s .chb (slotStep ops e s).b
  | complete (e : ExecB) (i : Instr) (c : CommitB) (hs : s.b.seq = .exec e) (hd : decode .b e.op = .ok i)
      (hn : nextB i e = some (.done c)) : TurnB s .chb (completeB c s).b
  | raise (e : ExecB) (code : ErrCode) (hs : s.b.seq = .exec e) (hr : e.raises code) : TurnB s .chb (raiseB code s).b

/-- A bit that a write can only clear was set before. -/
theorem set_of_cleared {clear ovr : Bool} (h : (if clear then false else ovr) = true) : ovr = true := by
  cases clear with
  | false => exact h
  | true => cases h

/-- What a host write that is made does to channel A. -/
theorem turnA_hostWrite {s : State} {offset : Nat} {v : Word} {rest : List HostStmt}
    (hp : s.host.program = .wr 32 offset v :: rest) : TurnA s .host (writeWindow offset v (s.hostAt rest)).a := by
  unfold writeWindow
  rcases writeReg_cases (regAt offset) v (s.hostAt rest) with
    h | ⟨hr, h⟩ | ⟨_, h⟩ | ⟨ch, _, h⟩ | ⟨_, h⟩ | ⟨ch, i, _, h⟩ <;> rw [h]
  · exact .kept _
  · obtain rfl : offset = 0x000 := offset_of_regAt_cmd hr
    rcases writeCmdA_cases v (s.hostAt rest) with ⟨hidle, h⟩ | ⟨e, hs, h⟩ <;> rw [h]
    · exact .accept v rest hp hidle
    · exact .hostWrite s.a.devaddr s.a.regs.arg true fun _ => .inr (congrArg SeqA.busy hs)
  · rcases writeCmdB_cases v (s.hostAt rest) with ⟨_, h⟩ | ⟨_, _, h⟩ <;> rw [h]
    · exact .kept _
    · exact .kept _
  · cases ch with
    | a =>
      rw [State.mapRegs, writeStatus_eq]
      exact .hostWrite s.a.devaddr s.a.regs.arg _ fun hovr => .inl (set_of_cleared hovr)
    | b => exact .kept _
  · exact .hostWrite (v.extractLsb' 0 7) s.a.regs.arg s.a.regs.ovr .inl
  · cases ch with
    | a => exact .hostWrite s.a.devaddr (s.a.regs.arg.set i v) s.a.regs.ovr .inl
    | b => exact .kept _

/-- What a host write that is made does to channel B. -/
theorem turnB_hostWrite {s : State} {offset : Nat} {v : Word} {rest : List HostStmt}
    (hp : s.host.program = .wr 32 offset v :: rest) : TurnB s .host (writeWindow offset v (s.hostAt rest)).b := by
  unfold writeWindow
  rcases writeReg_cases (regAt offset) v (s.hostAt rest) with
    h | ⟨_, h⟩ | ⟨hr, h⟩ | ⟨ch, _, h⟩ | ⟨_, h⟩ | ⟨ch, i, _, h⟩ <;> rw [h]
  · exact .kept _
  · rcases writeCmdA_cases v (s.hostAt rest) with ⟨_, h⟩ | ⟨_, _, h⟩ <;> rw [h]
    · exact .kept _
    · exact .kept _
  · obtain rfl : offset = 0x100 := offset_of_regAt_cmd hr
    rcases writeCmdB_cases v (s.hostAt rest) with ⟨hidle, h⟩ | ⟨e, hs, h⟩ <;> rw [h]
    · exact .accept v rest hp hidle
    · exact .hostWrite s.b.regs.arg true fun _ => .inr (congrArg SeqB.busy hs)
  · cases ch with
    | a => exact .kept _
    | b =>
      rw [State.mapRegs, writeStatus_eq]
      exact .hostWrite s.b.regs.arg _ fun hovr => .inl (set_of_cleared hovr)
  · exact .kept _
  · cases ch with
    | a => exact .kept _
    | b => exact .hostWrite (s.b.regs.arg.set i v) s.b.regs.ovr .inl

/-- A host turn that answers has made one write, or left both channels alone. -/
theorem turn_host_sides {s t : State} (h : turn .host s = .next t) : TurnA s .host t.a ∧ TurnB s .host t.b := by
  rcases stepHost_next s t h with ⟨_, rfl⟩ | ⟨offset, v, rest, hp, _, _, rfl⟩ | ⟨_, _, _, _, _, rfl⟩ |
    ⟨_, _, _, rfl⟩ | ⟨_, _, _, _, _, rfl⟩
  · exact ⟨.kept _, .kept _⟩
  · exact ⟨turnA_hostWrite hp, turnB_hostWrite hp⟩
  · exact ⟨.kept _, .kept _⟩
  · exact ⟨.kept _, .kept _⟩
  · exact ⟨.kept _, .kept _⟩

theorem turn_cha_sides {s t : State} (h : turn .cha s = .next t) : TurnA s .cha t.a ∧ TurnB s .cha t.b := by
  rcases turn_cha_cases s with ⟨_, hturn⟩ | ⟨e, hs, ⟨r, hd, hturn⟩ | ⟨i, hd, hturn⟩⟩
  · cases hturn.symm.trans h
    exact ⟨.kept _, .kept _⟩
  · cases hturn.symm.trans h
    exact ⟨.raise e _ hs (.inl ⟨rfl, r, hd⟩), .kept _⟩
  · obtain ⟨next, hexec, hnext⟩ := exec_nextA (place_of_decode hd)
    rw [hexec s] at hturn
    cases hturn.symm.trans h
    refine ⟨?_, (stepA_frame (next s.a) s).1 ▸ .kept _⟩
    cases hp : e.phase with
    | raised code =>
      rw [stepA_raised (next s.a) hs hp]
      exact .raise e code hs (.inr ⟨i, hd, .inl hp⟩)
    | prim k =>
      have hn := hnext s.a e k
      rw [stepA_prim (next s.a) hs hp]
      cases hact : next s.a e k with
      | read addr n => exact .read e i k addr n hs hd hp (hact ▸ hn)
      | write addr bytes => exact .write e i k addr bytes hs hd hp (hact ▸ hn)
      | done c => exact .complete e i k c hs hd hp (hact ▸ hn)
      | raise code => exact .raise e code hs (.inr ⟨i, hd, .inr ⟨k, hp, hact ▸ hn⟩⟩)

theorem turn_chb_sides {s t : State} (h : turn .chb s = .next t) : TurnA s .chb t.a ∧ TurnB s .chb t.b := by
  rcases turn_chb_cases s with ⟨_, hturn⟩ | ⟨e, hs, ⟨r, hd, hturn⟩ | ⟨i, hd, hturn⟩⟩
  · cases hturn.symm.trans h
    exact ⟨.kept _, .kept _⟩
  · cases hturn.symm.trans h
    exact ⟨.kept _, .raise e _ hs (.inl ⟨rfl, r, hd⟩)⟩
  · obtain ⟨act, hn, hexec⟩ := exec_currentB (place_of_decode hd) hs
    cases (hturn.trans hexec).symm.trans h
    cases act with
    | slot ops => exact ⟨(slotStep_frame ops e s).1 ▸ .kept _, .slot e i _ ops hs hd hn rfl⟩
    | bus v => exact ⟨(slotStep_frame (writeByteOps v) e s).1 ▸ .kept _, .slot e i _ _ hs hd hn rfl⟩
    | done c => exact ⟨.kept _, .complete e i c hs hd hn⟩
    | raise code => exact ⟨.kept _, .raise e code hs (.inr ⟨i, hd, hn⟩)⟩

/-- What a turn that answers has made of the two channels. -/
theorem turn_sides {ag : Agent} {s t : State} (h : turn ag s = .next t) : TurnA s ag t.a ∧ TurnB s ag t.b := by
  cases ag with
  | host => exact turn_host_sides h
  | cha => exact turn_cha_sides h
  | chb => exact turn_chb_sides h
  | reset =>
    cases h
    exact ⟨.reset, .reset⟩

/-- A step that answers has made nothing, or the turn at the head of the schedule. -/
theorem step_sides {s t : State} (h : step s = .next t) :
    t = s ∨ ∃ ag q, s.schedule = ag :: q ∧ TurnA { s with schedule := q } ag t.a ∧ TurnB { s with schedule := q } ag t.b := by
  rcases step_cases s with ⟨_, hstep⟩ | ⟨ag, q, hq, hstep⟩
  · exact .inl (Host.Outcome.next.inj (h.symm.trans hstep))
  · exact .inr ⟨ag, q, hq, turn_sides (hstep.symm.trans h)⟩

end Sys2Proof.Machine
end

section
/-! O11, O58, O52, O54. The rules about the registers and banks of one channel: what a command may commit, and what each
turn leaves of its channel. -/

namespace Sys2Proof.Machine

/-! ### What a command may commit (R606) -/

/-- What the channel-A command `i` may commit beside its results: the bank together with `CAL_VALID` for `LDCAL`, the
cleared `CAL_VALID` for `SRST`, nothing for the others. -/
def CommitA.AllowedFor (c : CommitA) (i : Instr) : Prop :=
  (c.cal = none ∧ c.valid = none) ∨ (i = .aLdcal ∧ c.valid = some true) ∨
  (i = .aSrst ∧ c.cal = none ∧ c.valid = some false)

theorem allowedFor_of_nextA {i : Instr} {ch : ChanA} {e : ExecA} {k : Nat} {c : CommitA}
    (h : nextA i ch e k = some (.done c)) : c.AllowedFor i := by
  cases i with
  | aId | aStat | aRdraw =>
    rcases k with _ | k <;> cases h
    exact .inl ⟨rfl, rfl⟩
  | aSrst =>
    rcases k with _ | k <;> cases h
    exact .inr (.inr ⟨rfl, rfl, rfl⟩)
  | aLdcal =>
    rcases k with _ | _ | _ | k
    · simp only [nextA, ldcalNext] at h
      split at h <;> cases h
    all_goals cases h
    exact .inr (.inl ⟨rfl, rfl⟩)
  | aCfg =>
    rcases k with _ | _ | _ | _ | _ | _ | k
    · simp only [nextA, cfgNext] at h
      split at h <;> cases h
    all_goals cases h
    exact .inl ⟨rfl, rfl⟩
  | aCompt | aCompp | aCompp64 | aComph | aComphf | aEst =>
    simp only [nextA, comptNext, comppNext, compp64Next, comphNext, comphfNext, estNext] at h
    split at h <;> cases h
    exact .inl ⟨rfl, rfl⟩
  | _ => cases h

/-- What the channel-B command `i` may commit beside its results: for `OWRSP` a bank whose CRC8 is right, nothing for the
others. -/
def CommitB.AllowedFor (c : CommitB) (i : Instr) : Prop :=
  c.sp = none ∨ (i = .bOwrsp ∧ ∃ sp, c.sp = some sp ∧ validScratchpad sp.bytes = true)

theorem wordByte_wordOfBytes (b0 b1 b2 b3 : Byte) :
    wordByte (wordOfBytes b0 b1 b2 b3) 0 = b0 ∧ wordByte (wordOfBytes b0 b1 b2 b3) 1 = b1 ∧
    wordByte (wordOfBytes b0 b1 b2 b3) 2 = b2 ∧ wordByte (wordOfBytes b0 b1 b2 b3) 3 = b3 :=
  ⟨(BitVec.extractLsb'_append_eq_of_add_le (by decide)).trans
      ((BitVec.extractLsb'_append_eq_of_add_le (by decide)).trans BitVec.extractLsb'_append_eq_right),
    (BitVec.extractLsb'_append_eq_of_add_le (by decide)).trans
      ((BitVec.extractLsb'_append_eq_of_add_le (by decide)).trans BitVec.extractLsb'_append_eq_left),
    (BitVec.extractLsb'_append_eq_of_add_le (by decide)).trans BitVec.extractLsb'_append_eq_left,
    BitVec.extractLsb'_append_eq_left⟩

/-- The bank of nine bytes holds those nine bytes (R47). -/
theorem bytes_scratchpadOf (d : Nat → Byte) :
    (scratchpadOf ((List.range 9).map d)).bytes = (List.range 9).map d := by
  obtain ⟨h0, h1, h2, h3⟩ := wordByte_wordOfBytes (d 0) (d 1) (d 2) (d 3)
  obtain ⟨h4, h5, h6, h7⟩ := wordByte_wordOfBytes (d 4) (d 5) (d 6) (d 7)
  simp [scratchpadOf, Scratchpad.bytes, List.range_succ, h0, h1, h2, h3, h4, h5, h6, h7]

theorem allowedFor_of_nextB {i : Instr} {e : ExecB} {c : CommitB} (h : nextB i e = some (.done c)) :
    c.AllowedFor i := by
  cases i with
  | bOwrst | bOwwbit | bOwrbit | bOwwbyte | bOwrbyte =>
    simp only [nextB, owrstNext, owwbitNext, owrbitNext, owwbyteNext, owrbyteNext] at h
    split at h <;> cases h
    exact .inl rfl
  | bOwinit =>
    simp only [nextB, owinitNext] at h
    repeat' split at h
    all_goals cases h
    exact .inl rfl
  | bOwconv =>
    simp only [nextB, owconvNext] at h
    repeat' split at h
    all_goals cases h
    exact .inl rfl
  | bOwrsp =>
    simp only [nextB, owrspNext] at h
    repeat' split at h
    all_goals cases h
    next hvalid =>
      refine .inr ⟨rfl, _, rfl, ?_⟩
      rw [scratchpadBytes, bytes_scratchpadOf]
      exact hvalid
  | bOwdec =>
    cases h
    exact .inl rfl
  | bCrc8 len =>
    simp only [nextB, crc8Next] at h
    split at h <;> cases h
    exact .inl rfl
  | _ => cases h

/-! ### What a bus primitive leaves of its channel -/

/-- A read that is answered, or waits, moves only the trace and the command's position. -/
theorem memRead_a {s : State} {e : ExecA} (hs : s.a.seq = .exec e) (k : Nat) (addr : Byte) (n : Nat) :
    ∃ trace e', (memRead e k addr n s).a = { s.a with trace := trace, seq := .exec e' } := by
  rcases memRead_cases e k addr n s with ⟨_, h⟩ | ⟨ans, rest, _, h⟩ <;> rw [h]
  · exact ⟨s.a.trace, e, by rw [← hs]⟩
  · exact ⟨_, _, rfl⟩

/-- A write likewise. -/
theorem memWrite_a {s : State} {e : ExecA} (hs : s.a.seq = .exec e) (k : Nat) (addr : Byte) (bytes : List Byte) :
    ∃ trace e', (memWrite e k addr bytes s).a = { s.a with trace := trace, seq := .exec e' } := by
  rcases memWrite_cases e k addr bytes s with ⟨_, h⟩ | ⟨ans, rest, _, h⟩ <;> rw [h]
  · exact ⟨s.a.trace, e, by rw [← hs]⟩
  · exact ⟨_, _, rfl⟩

/-- A primitive of channel B moves only the line, the timebase, the trace and the command's position. -/
theorem slotStep_b {s : State} {e : ExecB} (hs : s.b.seq = .exec e) (ops : List PrimB) :
    ∃ drive time trace e', (slotStep ops e s).b =
      { s.b with drive := drive, time := time, trace := trace, seq := .exec e' } := by
  rcases slotStep_cases ops e s with ⟨p, _, h⟩ | ⟨_, h⟩ <;> rw [h]
  · rcases primB_cases p e (e.phase.advance ops.length) s with
      ⟨_, _, h⟩ | ⟨_, _, _, _, h⟩ | ⟨_, _, h⟩ | ⟨_, _, h⟩ | ⟨_, _, h⟩ <;> rw [h]
    · exact ⟨s.b.drive, s.b.time, s.b.trace, e, by rw [← hs]⟩
    · exact ⟨_, _, _, _, rfl⟩
    · exact ⟨_, _, _, _, rfl⟩
    · exact ⟨_, _, _, _, rfl⟩
    · exact ⟨_, _, _, _, rfl⟩
  · exact ⟨_, _, _, _, rfl⟩

/-! ### O11: the host and a running command -/

theorem TurnA.host_keeps_running {s : State} {c : ChanA} {e : ExecA} (h : TurnA s .host c) (hs : s.a.seq = .exec e) :
    c.seq = .exec e ∧ c.trace = s.a.trace ∧ c.regs.res = s.a.regs.res ∧ c.regs.valid = s.a.regs.valid ∧
    c.regs.err = s.a.regs.err ∧ c.regs.done = s.a.regs.done ∧ c.regs.lastop = s.a.regs.lastop ∧ c.cal = s.a.cal := by
  cases h with
  | kept => exact ⟨hs, rfl, rfl, rfl, rfl, rfl, rfl, rfl⟩
  | accept w rest hp hidle => cases hs.symm.trans hidle
  | hostWrite => exact ⟨hs, rfl, rfl, rfl, rfl, rfl, rfl, rfl⟩

theorem TurnB.host_keeps_running {s : State} {c : ChanB} {e : ExecB} (h : TurnB s .host c) (hs : s.b.seq = .exec e) :
    c.seq = .exec e ∧ c.trace = s.b.trace ∧ c.regs.res = s.b.regs.res ∧ c.regs.valid = s.b.regs.valid ∧
    c.regs.err = s.b.regs.err ∧ c.regs.done = s.b.regs.done ∧ c.regs.lastop = s.b.regs.lastop ∧ c.sp = s.b.sp ∧
    c.drive = s.b.drive := by
  cases h with
  | kept => exact ⟨hs, rfl, rfl, rfl, rfl, rfl, rfl, rfl, rfl⟩
  | accept w rest hp hidle => cases hs.symm.trans hidle
  | hostWrite => exact ⟨hs, rfl, rfl, rfl, rfl, rfl, rfl, rfl, rfl⟩

/-- Settles O11: on a busy channel a host turn writes at most the arguments, `OVR` and `DEVADDR`. -/
theorem hostCannotReachRunningCommand : Obligations.HostCannotReachRunningCommand := fun _ _ h =>
  ⟨fun _ hs => (turn_host_sides h).1.host_keeps_running hs, fun _ hs => (turn_host_sides h).2.host_keeps_running hs⟩

/-! ### O58: what changes the registers -/

/-- A turn changes results, bank and `CAL_VALID` only by block reset or by a completion with what the command may commit. -/
theorem TurnA.registers_cases {s : State} {ag : Agent} {c : ChanA} (h : TurnA s ag c) :
    ag = .reset ∨ (c.regs.res = s.a.regs.res ∧ c.cal = s.a.cal ∧ c.regs.valid = s.a.regs.valid) ∨
    (ag = .cha ∧ ∃ i m, s.runsA i ∧ m.AllowedFor i ∧ c = (completeA m s).a) := by
  cases h with
  | kept | accept | hostWrite | raise => exact .inr (.inl ⟨rfl, rfl, rfl⟩)
  | reset => exact .inl rfl
  | read e i k addr n hs =>
    obtain ⟨_, _, heq⟩ := memRead_a hs k addr n
    rw [heq]
    exact .inr (.inl ⟨rfl, rfl, rfl⟩)
  | write e i k addr bytes hs =>
    obtain ⟨_, _, heq⟩ := memWrite_a hs k addr bytes
    rw [heq]
    exact .inr (.inl ⟨rfl, rfl, rfl⟩)
  | complete e i k m hs hd hk hn => exact .inr (.inr ⟨rfl, i, m, ⟨e, hs, hd⟩, allowedFor_of_nextA hn, rfl⟩)

/-- A turn changes results, bank and `SP_VALID` only by block reset or by a completion, likewise. -/
theorem TurnB.registers_cases {s : State} {ag : Agent} {c : ChanB} (h : TurnB s ag c) :
    ag = .reset ∨ (c.regs.res = s.b.regs.res ∧ c.sp = s.b.sp ∧ c.regs.valid = s.b.regs.valid) ∨
    (ag = .chb ∧ ∃ i m, s.runsB i ∧ m.AllowedFor i ∧ c = (completeB m s).b) := by
  cases h with
  | kept | accept | hostWrite | raise => exact .inr (.inl ⟨rfl, rfl, rfl⟩)
  | reset => exact .inl rfl
  | slot e i act ops hs =>
    obtain ⟨_, _, _, _, heq⟩ := slotStep_b hs ops
    rw [heq]
    exact .inr (.inl ⟨rfl, rfl, rfl⟩)
  | complete e i m hs hd hn => exact .inr (.inr ⟨rfl, i, m, ⟨e, hs, hd⟩, allowedFor_of_nextB hn, rfl⟩)

/-- A turn changes `BUSY` only by block reset, by ending the command, or by the acceptance of one. -/
theorem TurnA.busy_cases {s : State} {ag : Agent} {c : ChanA} (h : TurnA s ag c) :
    (ag = .reset ∧ c.seq.busy = false) ∨ c.seq.busy = s.a.seq.busy ∨
    (ag = .cha ∧ c.seq.busy = false ∧ c.regs.done = true) ∨
    (ag = .host ∧ (∃ w, s.host.program.head? = some (.wr 32 0x000 w)) ∧ s.a.seq.busy = false ∧ c.regs.done = false) := by
  cases h with
  | kept | hostWrite => exact .inr (.inl rfl)
  | reset => exact .inl ⟨rfl, rfl⟩
  | accept w rest hp hs => exact .inr (.inr (.inr ⟨rfl, ⟨w, by rw [hp]; rfl⟩, by rw [hs]; rfl, rfl⟩))
  | read e i k addr n hs =>
    obtain ⟨_, _, heq⟩ := memRead_a hs k addr n
    exact .inr (.inl (by rw [heq, hs]; rfl))
  | write e i k addr bytes hs =>
    obtain ⟨_, _, heq⟩ := memWrite_a hs k addr bytes
    exact .inr (.inl (by rw [heq, hs]; rfl))
  | complete | raise => exact .inr (.inr (.inl ⟨rfl, rfl, rfl⟩))

/-- The same of channel B. -/
theorem TurnB.busy_cases {s : State} {ag : Agent} {c : ChanB} (h : TurnB s ag c) :
    (ag = .reset ∧ c.seq.busy = false) ∨ c.seq.busy = s.b.seq.busy ∨
    (ag = .chb ∧ c.seq.busy = false ∧ c.regs.done = true) ∨
    (ag = .host ∧ (∃ w, s.host.program.head? = some (.wr 32 0x100 w)) ∧ s.b.seq.busy = false ∧ c.regs.done = false) := by
  cases h with
  | kept | hostWrite => exact .inr (.inl rfl)
  | reset => exact .inl ⟨rfl, rfl⟩
  | accept w rest hp hs => exact .inr (.inr (.inr ⟨rfl, ⟨w, by rw [hp]; rfl⟩, by rw [hs]; rfl, rfl⟩))
  | slot e i act ops hs =>
    obtain ⟨_, _, _, _, heq⟩ := slotStep_b hs ops
    exact .inr (.inl (by rw [heq, hs]; rfl))
  | complete | raise => exact .inr (.inr (.inl ⟨rfl, rfl, rfl⟩))

section
variable {s t : State} {ag : Agent} {q : List Agent}

theorem registersA_change (hq : s.schedule = ag :: q) (h : TurnA { s with schedule := q } ag t.a) :
    (t.a.regs.res ≠ s.a.regs.res → resetTurn s ∨ completedA s t) ∧
    (t.a.cal ≠ s.a.cal → resetTurn s ∨ (completedA s t ∧ s.runsA .aLdcal ∧ t.a.regs.valid = true)) ∧
    (t.a.regs.valid ≠ s.a.regs.valid → resetTurn s ∨ (completedA s t ∧
      ((s.runsA .aLdcal ∧ t.a.regs.valid = true) ∨ (s.runsA .aSrst ∧ t.a.regs.valid = false)))) := by
  have hhead : s.schedule.head? = some ag := by rw [hq]; rfl
  rcases h.registers_cases with rfl | ⟨hres, hcal, hvalid⟩ | ⟨rfl, i, m, hruns, hallowed, ht⟩
  · exact ⟨fun _ => .inl hhead, fun _ => .inl hhead, fun _ => .inl hhead⟩
  · exact ⟨fun hne => absurd hres hne, fun hne => absurd hcal hne, fun hne => absurd hvalid hne⟩
  · have hdone : completedA s t := by
      obtain ⟨e, hs, _⟩ := hruns
      exact ⟨hhead, congrArg SeqA.busy hs, by rw [ht]; rfl, by rw [ht]; rfl, by rw [ht]; rfl⟩
    refine ⟨fun _ => .inr hdone, fun hne => .inr ⟨hdone, ?_⟩, fun hne => .inr ⟨hdone, ?_⟩⟩
    · rcases hallowed with ⟨hcal, _⟩ | ⟨rfl, hvalid⟩ | ⟨_, hcal, _⟩
      · exact absurd (by rw [ht, completeA_a_cal, hcal]; rfl) hne
      · exact ⟨hruns, by rw [ht, completeA_valid, hvalid]; rfl⟩
      · exact absurd (by rw [ht, completeA_a_cal, hcal]; rfl) hne
    · rcases hallowed with ⟨_, hvalid⟩ | ⟨rfl, hvalid⟩ | ⟨rfl, _, hvalid⟩
      · exact absurd (by rw [ht, completeA_valid, hvalid]; rfl) hne
      · exact .inl ⟨hruns, by rw [ht, completeA_valid, hvalid]; rfl⟩
      · exact .inr ⟨hruns, by rw [ht, completeA_valid, hvalid]; rfl⟩

theorem registersB_change (hq : s.schedule = ag :: q) (h : TurnB { s with schedule := q } ag t.b) :
    (t.b.regs.res ≠ s.b.regs.res → resetTurn s ∨ completedB s t) ∧
    (t.b.sp ≠ s.b.sp ∨ t.b.regs.valid ≠ s.b.regs.valid →
      resetTurn s ∨ (completedB s t ∧ s.runsB .bOwrsp ∧ t.b.regs.valid = true)) := by
  have hhead : s.schedule.head? = some ag := by rw [hq]; rfl
  rcases h.registers_cases with rfl | ⟨hres, hsp, hvalid⟩ | ⟨rfl, i, m, hruns, hallowed, ht⟩
  · exact ⟨fun _ => .inl hhead, fun _ => .inl hhead⟩
  · exact ⟨fun hne => absurd hres hne, fun hne => hne.elim (absurd hsp) (absurd hvalid)⟩
  · have hdone : completedB s t := by
      obtain ⟨e, hs, _⟩ := hruns
      exact ⟨hhead, congrArg SeqB.busy hs, by rw [ht]; rfl, by rw [ht]; rfl, by rw [ht]; rfl⟩
    refine ⟨fun _ => .inr hdone, fun hne => .inr ⟨hdone, ?_⟩⟩
    rcases hallowed with hsp | ⟨rfl, sp, hsp, _⟩
    · rw [ht, completeB_b_sp, completeB_valid, hsp] at hne
      exact hne.elim (absurd rfl) (absurd rfl)
    · exact ⟨hruns, by rw [ht, completeB_valid, hsp]; rfl⟩

/-- The four ways a turn of `ag` can leave `BUSY`, read from what `BUSY` was: `own` is the channel's agent, `cmd` the write
of its `x_CMD`. -/
theorem busy_change {own : Agent} {before after done : Bool} {cmd : Prop}
    (h : (ag = .reset ∧ after = false) ∨ after = before ∨ (ag = own ∧ after = false ∧ done = true) ∨
      (ag = .host ∧ cmd ∧ before = false ∧ done = false)) :
    (before = true → after = false → ag = .reset ∨ (ag = own ∧ done = true)) ∧
    (before = false → after = true → ag = .host ∧ cmd ∧ done = false) := by
  rcases h with ⟨hag, rfl⟩ | rfl | ⟨hag, rfl, hdone⟩ | ⟨hag, hcmd, rfl, hdone⟩
  · exact ⟨fun _ _ => .inl hag, nofun⟩
  · exact ⟨fun h h' => absurd (h.symm.trans h') (by decide), fun h h' => absurd (h.symm.trans h') (by decide)⟩
  · exact ⟨fun _ _ => .inr ⟨hag, hdone⟩, nofun⟩
  · exact ⟨nofun, fun _ _ => ⟨hag, hcmd, hdone⟩⟩

theorem busyA_change (hq : s.schedule = ag :: q) (h : TurnA { s with schedule := q } ag t.a) :
    (s.a.seq.busy = true → t.a.seq.busy = false →
      resetTurn s ∨ (s.schedule.head? = some .cha ∧ t.a.regs.done = true)) ∧
    (s.a.seq.busy = false → t.a.seq.busy = true →
      s.schedule.head? = some .host ∧ (∃ w, s.host.program.head? = some (.wr 32 0x000 w)) ∧ t.a.regs.done = false) := by
  simpa only [resetTurn, hq, List.head?_cons, Option.some.injEq] using busy_change h.busy_cases

theorem busyB_change (hq : s.schedule = ag :: q) (h : TurnB { s with schedule := q } ag t.b) :
    (s.b.seq.busy = true → t.b.seq.busy = false →
      resetTurn s ∨ (s.schedule.head? = some .chb ∧ t.b.regs.done = true)) ∧
    (s.b.seq.busy = false → t.b.seq.busy = true →
      s.schedule.head? = some .host ∧ (∃ w, s.host.program.head? = some (.wr 32 0x100 w)) ∧ t.b.regs.done = false) := by
  simpa only [resetTurn, hq, List.head?_cons, Option.some.injEq] using busy_change h.busy_cases

end

/-- Settles O58: a step that makes a turn by the four lemmas above, a step that makes none because it changes nothing. -/
theorem registersChangeOnlyAtCompletion : Obligations.RegistersChangeOnlyAtCompletion := by
  intro s t h
  rcases step_sides h with rfl | ⟨ag, q, hq, hA, hB⟩
  · exact ⟨absurd rfl, absurd rfl, absurd rfl, absurd rfl, fun hne => hne.elim (absurd rfl) (absurd rfl),
      fun h h' => absurd (h.symm.trans h') (by decide), fun h h' => absurd (h.symm.trans h') (by decide),
      fun h h' => absurd (h.symm.trans h') (by decide), fun h h' => absurd (h.symm.trans h') (by decide)⟩
  · obtain ⟨hresA, hcal, hvalid⟩ := registersA_change hq hA
    obtain ⟨hresB, hsp⟩ := registersB_change hq hB
    obtain ⟨hclearA, hsetA⟩ := busyA_change hq hA
    obtain ⟨hclearB, hsetB⟩ := busyB_change hq hB
    exact ⟨hresA, hcal, hvalid, hresB, hsp, hclearA, hclearB, hsetA, hsetB⟩

/-! ### What every turn keeps of each channel, every step keeps of both -/

theorem keptByStep_of_sides {P : State → Prop} {QA : ChanA → Prop} {QB : ChanB → Prop}
    (hP : ∀ s, P s ↔ QA s.a ∧ QB s.b) (hA : ∀ {s ag c}, TurnA s ag c → QA s.a → QA c)
    (hB : ∀ {s ag c}, TurnB s ag c → QB s.b → QB c) : KeptByStep P := by
  intro s t hs hstep
  rcases step_sides hstep with rfl | ⟨ag, q, _, hturnA, hturnB⟩
  · exact hs
  · obtain ⟨hsA, hsB⟩ := (hP s).mp hs
    exact (hP t).mpr ⟨hA hturnA hsA, hB hturnB hsB⟩

/-! ### O52: the scratchpad bank -/

/-- `SP_VALID` = 1 means a bank whose CRC8 is right (R38, R47). -/
def ChanB.bankValid (c : ChanB) : Prop := c.regs.valid = true → validScratchpad c.sp.bytes = true

theorem TurnB.keeps_bankValid {s : State} {ag : Agent} {c : ChanB} (h : TurnB s ag c) (hs : s.b.bankValid) :
    c.bankValid := by
  cases h with
  | kept | accept | hostWrite | raise => exact hs
  | reset => exact fun hvalid => by cases hvalid
  | slot e i act ops he =>
    obtain ⟨_, _, _, _, heq⟩ := slotStep_b he ops
    rw [heq]
    exact hs
  | complete e i m he hd hn =>
    unfold ChanB.bankValid
    rw [completeB_b_sp, completeB_valid]
    rcases allowedFor_of_nextB hn with hsp | ⟨_, sp, hsp, hcrc⟩ <;> rw [hsp]
    · exact hs
    · exact fun _ => hcrc

/-- Settles O52: only the commit of `OWRSP` writes the bank, and it stands behind the CRC check. -/
theorem scratchpadBankStaysValid : Obligations.ScratchpadBankStaysValid :=
  keptByStep_of_sides (QA := fun _ => True) (QB := ChanB.bankValid) (fun _ => ⟨fun h => ⟨trivial, h⟩, fun h => h.2⟩)
    (fun _ h => h) TurnB.keeps_bankValid

/-! ### O54: before the first command -/

/-- While it is idle with `DONE` = 0, the channel is as at reset but for its arguments and `DEVADDR` (R36). -/
def ChanA.freshUntilDone (c : ChanA) : Prop :=
  c.seq = .idle → c.regs.done = false → c.regs.fresh ∧ c.cal = .zero ∧ c.trace = []

/-- The same of channel B, but for its arguments. -/
def ChanB.freshUntilDone (c : ChanB) : Prop :=
  c.seq = .idle → c.regs.done = false → c.regs.fresh ∧ c.sp = ⟨0, 0, 0⟩ ∧ c.trace = []

theorem Regs.fresh_reset : Regs.reset.fresh := ⟨rfl, rfl, rfl, rfl, rfl⟩

/-- The host's writes leave an idle channel's registers fresh: `OVR` is set by a dropped word only. -/
theorem Regs.fresh.hostWrite {r : Regs} {busy ovr : Bool} (h : r.fresh) (hidle : busy = false)
    (hovr : ovr = true → r.ovr = true ∨ busy = true) (arg : Quad) : Regs.fresh { r with arg := arg, ovr := ovr } := by
  obtain ⟨herr, hlastop, hres, hvalid, hclear⟩ := h
  refine ⟨herr, hlastop, hres, hvalid, Bool.eq_false_iff.mpr fun hset => ?_⟩
  rcases hovr hset with h | h
  · exact absurd (hclear.symm.trans h) (by decide)
  · exact absurd (hidle.symm.trans h) (by decide)

theorem TurnA.keeps_freshUntilDone {s : State} {ag : Agent} {c : ChanA} (h : TurnA s ag c)
    (hs : s.a.freshUntilDone) : c.freshUntilDone := by
  intro hidle hdone
  cases h with
  | kept => exact hs hidle hdone
  | reset => exact ⟨Regs.fresh_reset, rfl, rfl⟩
  | hostWrite devaddr arg ovr hovr =>
    obtain ⟨hfresh, hbank⟩ := hs hidle hdone
    exact ⟨hfresh.hostWrite (congrArg SeqA.busy hidle) hovr arg, hbank⟩
  | accept => cases hidle
  | read e i k addr n he =>
    obtain ⟨_, _, heq⟩ := memRead_a he k addr n
    rw [heq] at hidle
    cases hidle
  | write e i k addr bytes he =>
    obtain ⟨_, _, heq⟩ := memWrite_a he k addr bytes
    rw [heq] at hidle
    cases hidle
  | complete | raise => cases hdone

theorem TurnB.keeps_freshUntilDone {s : State} {ag : Agent} {c : ChanB} (h : TurnB s ag c)
    (hs : s.b.freshUntilDone) : c.freshUntilDone := by
  intro hidle hdone
  cases h with
  | kept => exact hs hidle hdone
  | reset => exact ⟨Regs.fresh_reset, rfl, rfl⟩
  | hostWrite arg ovr hovr =>
    obtain ⟨hfresh, hbank⟩ := hs hidle hdone
    exact ⟨hfresh.hostWrite (congrArg SeqB.busy hidle) hovr arg, hbank⟩
  | accept => cases hidle
  | slot e i act ops he =>
    obtain ⟨_, _, _, _, heq⟩ := slotStep_b he ops
    rw [heq] at hidle
    cases hidle
  | complete | raise => cases hdone

/-- Settles O54: a turn that leaves a channel idle with `DONE` = 0 is a reset, or found it so and was no command's. -/
theorem freshUntilFirstCommandKept : Obligations.FreshUntilFirstCommandKept :=
  keptByStep_of_sides (QA := ChanA.freshUntilDone) (QB := ChanB.freshUntilDone) (fun _ => Iff.rfl)
    TurnA.keeps_freshUntilDone TurnB.keeps_freshUntilDone

end Sys2Proof.Machine
end

section
/-! O53. `LINE` inside a slot is what the primitives sent so far leave it (R57, R400). Every slot sequence leaves the line
released, and a command that is inside one goes on with it, or leaves it where the line is released. -/

namespace Sys2Proof.Machine

/-! ### The line after a sequence of primitives -/

/-- The line after one more primitive (R57). -/
def PrimB.drives (d : LineDrive) : PrimB → LineDrive
  | .driveLow _ => .low
  | .release _ => .released
  | .wait _ => d
  | .sample => d

theorem driveAfter_concat (ops : List PrimB) (p : PrimB) : driveAfter (ops ++ [p]) = p.drives (driveAfter ops) := by
  cases p <;> simp [driveAfter, PrimB.drives]

theorem driveAfter_append {ops : List PrimB} (h : driveAfter ops = .released) (ops' : List PrimB) :
    driveAfter (ops ++ ops') = driveAfter ops' := by
  unfold driveAfter at h ⊢
  rw [List.foldl_append, h]

theorem driveAfter_writeBitOps (bit : Bool) : driveAfter (writeBitOps bit) = .released := by
  cases bit <;> rfl

theorem driveAfter_writeByteOps (v : Byte) : driveAfter (writeByteOps v) = .released := by
  simp only [writeByteOps, List.append_assoc, driveAfter_append, driveAfter_writeBitOps]

/-- Whatever a command sends from a line of its pseudocode, it ends with the line released. -/
theorem driveAfter_of_nextB {i : Instr} {e : ExecB} {act : ActB} {ops : List PrimB} (h : nextB i e = some act)
    (hops : act.ops = some ops) : driveAfter ops = .released := by
  cases act with
  | done | raise => cases hops
  | bus v =>
    cases hops
    exact driveAfter_writeByteOps v
  | slot ops' =>
    cases hops
    cases i with
    | bOwrst | bOwrbit | bOwrbyte =>
      simp only [nextB, owrstNext, owrbitNext, owrbyteNext] at h
      split at h <;> cases h
      rfl
    | bOwwbit =>
      simp only [nextB, owwbitNext] at h
      split at h <;> cases h
      exact driveAfter_writeBitOps _
    | bOwwbyte =>
      simp only [nextB, owwbyteNext] at h
      split at h <;> cases h
      exact driveAfter_writeByteOps _
    | bOwinit =>
      simp only [nextB, owinitNext] at h
      repeat' split at h
      all_goals cases h
      · rfl
      all_goals exact driveAfter_writeByteOps _
    | bOwconv =>
      simp only [nextB, owconvNext] at h
      repeat' split at h
      all_goals cases h
      all_goals rfl
    | bOwrsp =>
      simp only [nextB, owrspNext] at h
      repeat' split at h
      all_goals cases h
      all_goals rfl
    | bCrc8 len =>
      simp only [nextB, crc8Next] at h
      split at h <;> cases h
    | _ => cases h

/-! ### Going on inside a line -/

/-- `e` after one more primitive of its line, with `staged` as the levels sampled. -/
def ExecB.goesOn (e : ExecB) (staged : List Bool) : ExecB :=
  { e with phase := { e.phase with sub := e.phase.sub + 1 }, staged := staged }

/-- `OWCONV` at poll `k + 1` (R460). -/
theorem owconvNext_poll {e : ExecB} {k : Nat} (hline : e.phase.line = k + 3) (hp : presence e.staged = true)
    (hk : k < Config.convPollMax) :
    owconvNext e = if e.phase.sub = 4 && lastLevel e.staged then
      .done { res := { r0 := some (BitVec.ofNat 32 (k + 1)) } } else .slot pollOps := by
  simp only [owconvNext, hline, hp, hk, if_true]

section
variable {e : ExecB} {ops : List PrimB} {staged : List Bool}

/-- `OWINIT` goes on sending, as long as it still has its presence pulse. -/
theorem owinitNext_goesOn (hst : presence e.staged = true → presence staged = true)
    (hops : (owinitNext e).ops = some ops) : owinitNext (e.goesOn staged) = owinitNext e := by
  obtain ⟨op, args, ⟨line, sub⟩, st⟩ := e
  rcases line with _ | n
  · rfl
  · by_cases hp : presence st = true
    · simp only [owinitNext, ExecB.goesOn, hp, hst hp, if_true]
    · simp [owinitNext, hp, ActB.ops] at hops

/-- `OWRSP` likewise. -/
theorem owrspNext_goesOn (hst : presence e.staged = true → presence staged = true)
    (hops : (owrspNext e).ops = some ops) : owrspNext (e.goesOn staged) = owrspNext e := by
  obtain ⟨op, args, ⟨line, sub⟩, st⟩ := e
  rcases line with _ | n
  · rfl
  · by_cases hp : presence st = true
    · rcases n with _ | _ | k
      · simp only [owrspNext, ExecB.goesOn, hp, hst hp, if_true]
      · simp only [owrspNext, ExecB.goesOn, hp, hst hp, if_true]
      · by_cases hk : k < 9
        · simp only [owrspNext, ExecB.goesOn, hp, hst hp, hk, if_true]
        · simp only [owrspNext, hp, hk, if_true, if_false] at hops
          split at hops <;> cases hops
    · simp [owrspNext, hp, ActB.ops] at hops

/-- `OWCONV` likewise, but that a poll can end it, after the four primitives of its read slot. -/
theorem owconvNext_goesOn (hst : presence e.staged = true → presence staged = true)
    (hops : (owconvNext e).ops = some ops) :
    owconvNext (e.goesOn staged) = owconvNext e ∨
    (ops = pollOps ∧ e.phase.sub + 1 = 4 ∧ ∃ c, owconvNext (e.goesOn staged) = .done c) := by
  obtain ⟨op, args, ⟨line, sub⟩, st⟩ := e
  rcases line with _ | n
  · exact .inl rfl
  · by_cases hp : presence st = true
    · rcases n with _ | _ | k
      · exact .inl (by simp only [owconvNext, ExecB.goesOn, hp, hst hp, if_true])
      · exact .inl (by simp only [owconvNext, ExecB.goesOn, hp, hst hp, if_true])
      · by_cases hk : k < Config.convPollMax
        · have hpoll := owconvNext_poll (e := ⟨op, args, ⟨k + 3, sub⟩, st⟩) rfl hp hk
          have hgo := owconvNext_poll (e := ExecB.goesOn ⟨op, args, ⟨k + 3, sub⟩, st⟩ staged) rfl (hst hp) hk
          rw [hpoll] at hops ⊢
          split at hops <;> cases hops
          next hne =>
            rw [if_neg hne, hgo]
            split
            next hend => exact .inr ⟨rfl, of_decide_eq_true (Bool.and_eq_true_iff.mp hend).1, _, rfl⟩
            · exact .inl rfl
        · simp only [owconvNext, hp, hk, if_true, if_false] at hops
          cases hops
    · simp [owconvNext, hp, ActB.ops] at hops

/-- A command that is sending from a line goes on with it, as long as it still has its presence pulse. Only a conversion
poll can end instead (R460). -/
theorem nextB_goesOn {i : Instr} {act : ActB} (hst : presence e.staged = true → presence staged = true)
    (h : nextB i e = some act) (hops : act.ops = some ops) :
    nextB i (e.goesOn staged) = some act ∨
    (ops = pollOps ∧ e.phase.sub + 1 = 4 ∧ ∃ c, nextB i (e.goesOn staged) = some (.done c)) := by
  cases i with
  | bOwrst | bOwwbit | bOwrbit | bOwwbyte | bOwrbyte =>
    obtain ⟨op, args, ⟨line, sub⟩, st⟩ := e
    rcases line with _ | n
    · exact .inl h
    · cases h
      cases hops
  | bOwinit =>
    cases h
    exact .inl (congrArg some (owinitNext_goesOn hst hops))
  | bOwconv =>
    cases h
    rcases owconvNext_goesOn hst hops with hgo | ⟨hpoll, hsub, c, hgo⟩
    · exact .inl (congrArg some hgo)
    · exact .inr ⟨hpoll, hsub, c, congrArg some hgo⟩
  | bOwrsp =>
    cases h
    exact .inl (congrArg some (owrspNext_goesOn hst hops))
  | bOwdec | bCrc8 => exact .inl h
  | _ => cases h

end

theorem presence_append {staged : List Bool} (h : presence staged = true) (level : Bool) :
    presence (staged ++ [level]) = true := by
  cases staged with
  | nil => cases h
  | cons x xs => exact h

/-! ### The line where a sequencer stands -/

/-- The line as the sequencer's position says it: released when idle, else as the slots sent so far leave it. -/
def SeqB.line : SeqB → LineDrive
  | .idle => .released
  | .exec e => driveAfter (sentSoFar e)

theorem lineQuiet_iff (s : State) : LineQuiet s ↔ s.b.drive = s.b.seq.line := by
  unfold LineQuiet
  cases s.b.seq <;> exact Iff.rfl

theorem sentSoFar_of_decode_error {e : ExecB} {r : Reject} (h : decode .b e.op = .error r) : sentSoFar e = [] := by
  simp only [sentSoFar, h]

theorem sentSoFar_of_nextB {e : ExecB} {i : Instr} {act : ActB} (hd : decode .b e.op = .ok i)
    (hn : nextB i e = some act) : sentSoFar e = (act.ops.getD []).take e.phase.sub := by
  simp only [sentSoFar, hd, hn]
  cases act <;> simp [ActB.ops]

/-- At the beginning of a line nothing of it has been sent. -/
theorem sentSoFar_of_sub_zero {e : ExecB} (h : e.phase.sub = 0) : sentSoFar e = [] := by
  cases hd : decode .b e.op with
  | error r => exact sentSoFar_of_decode_error hd
  | ok i =>
    obtain ⟨next, hn, _⟩ := exec_channelB i (place_of_decode hd) .reset
    rw [sentSoFar_of_nextB hd (hn e), h, List.take_zero]

/-- A command that raises a code has sent nothing from its present line. -/
theorem sentSoFar_of_raises {e : ExecB} {code : ErrCode} (h : e.raises code) : sentSoFar e = [] := by
  rcases h with ⟨_, r, hd⟩ | ⟨i, hd, hn⟩
  · exact sentSoFar_of_decode_error hd
  · simp [sentSoFar_of_nextB hd hn, ActB.ops]

/-! ### A primitive keeps the line where the sequencer says it is -/

section
variable {e : ExecB} {i : Instr} {act : ActB} {ops : List PrimB}

/-- The primitive at the position is added to what has been sent of the line. -/
theorem drives_sentSoFar (hd : decode .b e.op = .ok i) (hn : nextB i e = some act) (hops : act.ops = some ops)
    {p : PrimB} (hp : ops[e.phase.sub]? = some p) :
    p.drives (driveAfter (sentSoFar e)) = driveAfter (ops.take (e.phase.sub + 1)) := by
  rw [sentSoFar_of_nextB hd hn, hops, List.take_add_one, hp, ← driveAfter_concat]
  rfl

/-- Wherever the slot sequence goes on to after a primitive, the line is as that position says. -/
theorem line_after_primitive (hd : decode .b e.op = .ok i) (hn : nextB i e = some act) (hops : act.ops = some ops)
    {p : PrimB} (hp : ops[e.phase.sub]? = some p) {staged : List Bool}
    (hst : presence e.staged = true → presence staged = true) :
    p.drives (driveAfter (sentSoFar e)) =
      (SeqB.exec { e with phase := e.phase.advance ops.length, staged := staged }).line := by
  rw [drives_sentSoFar hd hn hops hp]
  by_cases hlt : e.phase.sub + 1 < ops.length
  · have hgo : { e with phase := e.phase.advance ops.length, staged := staged } = e.goesOn staged := by
      simp only [PhaseB.advance, if_pos hlt, ExecB.goesOn]
    rw [hgo, SeqB.line]
    rcases nextB_goesOn hst hn hops with hnext | ⟨rfl, hsub, c, hnext⟩
    · rw [sentSoFar_of_nextB (e := e.goesOn staged) hd hnext, hops]
      rfl
    · rw [sentSoFar_of_nextB (e := e.goesOn staged) hd hnext, hsub]
      rfl
  · have hnew : sentSoFar { e with phase := e.phase.advance ops.length, staged := staged } = [] :=
      sentSoFar_of_sub_zero (by simp only [PhaseB.advance, if_neg hlt])
    rw [SeqB.line, hnew, List.take_of_length_le (Nat.le_of_not_lt hlt), driveAfter_of_nextB hn hops]
    rfl

/-- Past the end of a slot sequence the line is released, and so is the next line of the command entered. -/
theorem line_past_end (hd : decode .b e.op = .ok i) (hn : nextB i e = some act) (hops : act.ops = some ops)
    (hend : ops.length ≤ e.phase.sub) :
    driveAfter (sentSoFar e) = (SeqB.exec { e with phase := e.phase.advance ops.length }).line := by
  have hnew : sentSoFar { e with phase := e.phase.advance ops.length } = [] :=
    sentSoFar_of_sub_zero (by simp only [PhaseB.advance, if_neg (show ¬ e.phase.sub + 1 < ops.length by omega)])
  rw [SeqB.line, hnew, sentSoFar_of_nextB hd hn, hops, Option.getD_some, List.take_of_length_le hend,
    driveAfter_of_nextB hn hops]
  rfl

theorem slotStep_keeps_line {s : State} (hs : s.b.seq = .exec e) (hd : decode .b e.op = .ok i)
    (hn : nextB i e = some act) (hops : act.ops = some ops) (hline : s.b.drive = s.b.seq.line) :
    (slotStep ops e s).b.drive = (slotStep ops e s).b.seq.line := by
  have hdrive : s.b.drive = driveAfter (sentSoFar e) := by rw [hline, hs, SeqB.line]
  rcases slotStep_cases ops e s with ⟨p, hp, h⟩ | ⟨hend, h⟩
  · have hline' := fun staged => line_after_primitive hd hn hops hp (staged := staged)
    rw [← hdrive] at hline'
    rw [h]
    rcases primB_cases p e (e.phase.advance ops.length) s with
      ⟨_, _, h⟩ | ⟨level, _, rfl, _, h⟩ | ⟨_, rfl, h⟩ | ⟨_, rfl, h⟩ | ⟨_, rfl, h⟩ <;> rw [h]
    · exact hline
    · exact hline' (e.staged ++ [level]) fun hpres => presence_append hpres level
    all_goals exact hline' e.staged id
  · rw [h]
    exact hdrive.trans (line_past_end hd hn hops hend)

end

/-- Every turn leaves the line where the sequencer's position says it is (R57). -/
theorem TurnB.keeps_line {s : State} {ag : Agent} {c : ChanB} (h : TurnB s ag c) (hs : s.b.drive = s.b.seq.line) :
    c.drive = c.seq.line := by
  cases h with
  | kept | hostWrite => exact hs
  | reset => rfl
  | accept w rest hp hidle =>
    have hline : s.b.drive = .released := by rw [hs, hidle, SeqB.line]
    rw [acceptB_b_drive, acceptB_b_seq, SeqB.line, sentSoFar_of_sub_zero rfl, hline]
    rfl
  | slot e i act ops he hd hn hops => exact slotStep_keeps_line he hd hn hops hs
  | complete e i m he hd hn =>
    rw [completeB_b_drive, hs, he, SeqB.line, sentSoFar_of_nextB hd hn]
    simp [ActB.ops, driveAfter, SeqB.line]
  | raise e code he hr =>
    rw [raiseB_b_drive, hs, he, SeqB.line, sentSoFar_of_raises hr]
    rfl

/-- Settles O53: the line is where the sequencer's position says, at every position of every command. -/
theorem lineReleasedWhenIdle : Obligations.LineReleasedWhenIdle :=
  keptByStep_of_sides (QA := fun _ => True) (QB := fun c => c.drive = c.seq.line)
    (fun s => (lineQuiet_iff s).trans ⟨fun h => ⟨trivial, h⟩, fun h => h.2⟩) (fun _ h => h) TurnB.keeps_line

end Sys2Proof.Machine
end

section
/-! O16, O57. What a channel's turn runs, and the reset state. -/

namespace Sys2Proof.Machine

/-- A command that sends no single-wire command byte runs as itself. -/
theorem currentB_of_no_bus {i : Instr} {e : ExecB} (h : ∀ v, nextB i e ≠ some (.bus v)) : currentB i e = i := by
  have hnone : busByteAt i e = none := by
    unfold busByteAt
    split
    next v hv => exact absurd hv (h v)
    · rfl
  simp only [currentB, hnone]

/-- Settles O16: the step takes the turn, and the turn runs what its channel fetches. -/
theorem stepRunsInstruction : Obligations.StepRunsInstruction := by
  refine ⟨fun s e q i hq hs hd => ?_, fun s e q i hq hs hd hbus => ?_⟩
  · simp only [step, hq, turn, fetchA, hs, hd, runFetched]
  · simp only [step, hq, turn, fetchB, hs, hd, runFetched, currentB_of_no_bus hbus]

/-- Settles O57: each invariant at the values of R60. -/
theorem resetHasInvariants : Obligations.ResetHasInvariants := by
  refine ⟨?scratchpad, ?line, ?fresh, ?codes, ?accesses, ?nibbles, ?timebase⟩
  case scratchpad => exact nofun
  case line => exact (lineQuiet_iff _).mpr rfl
  case fresh => exact ⟨fun _ _ => ⟨Regs.fresh_reset, rfl, rfl⟩, fun _ _ => ⟨Regs.fresh_reset, rfl, rfl⟩⟩
  case codes => exact ⟨nofun, nofun⟩
  case accesses => exact nofun
  case nibbles =>
    unfold NibbleCoefficientsInRange
    decide
  case timebase => rfl

end Sys2Proof.Machine
end

section
/-! The numbers that two parts of a word spell (20_memory.md R108 to R110). -/

namespace Sys2Proof.Machine

/-- The upper part of a word counts in units of the lower part's range. -/
theorem toNat_append_eq_add {n m : Nat} (hi : BitVec n) (lo : BitVec m) :
    (hi ++ lo).toNat = hi.toNat * 2 ^ m + lo.toNat := by
  rw [BitVec.toNat_append, ← Nat.shiftLeft_add_eq_or_of_lt lo.isLt, Nat.shiftLeft_eq]

/-- A byte pair counts its high byte in units of 256 (R109). -/
theorem toNat_pair16 (lo hi : Byte) : (pair16 lo hi).toNat = lo.toNat + 256 * hi.toNat := by
  rw [pair16, toNat_append_eq_add]
  omega

/-- A 12-bit coefficient takes its sign from its high byte (R110). -/
theorem toInt_sext12 (hi : Byte) (nibble : BitVec 4) : (sext12 hi nibble).toInt = hi.toInt * 16 + nibble.toNat := by
  rw [sext12, BitVec.toInt_signExtend_of_le (by decide), BitVec.toInt_append, if_neg (by decide)]
  omega

theorem sext12_in_range (hi : Byte) (nibble : BitVec 4) :
    -2048 ≤ (sext12 hi nibble).toInt ∧ (sext12 hi nibble).toInt ≤ 2047 := by
  have hlow : -128 ≤ hi.toInt := hi.le_toInt
  have hhigh : hi.toInt < 128 := hi.toInt_lt
  have hnibble : nibble.toNat < 16 := nibble.isLt
  rw [toInt_sext12]
  omega

theorem toNat_lowNibble (b : Byte) : (b.extractLsb' 0 4).toNat = b.toNat % 16 :=
  BitVec.extractLsb'_toNat 0 4 b

theorem toNat_highNibble (b : Byte) : (b.extractLsb' 4 4).toNat = b.toNat / 16 := by
  have hb : b.toNat < 256 := b.isLt
  rw [BitVec.extractLsb'_toNat, Nat.shiftRight_eq_div_pow]
  omega

/-- A 20-bit code takes the top nibble of its third byte; the pad below it counts nothing (R108). -/
theorem toNat_raw20 (b0 b1 b2 : Byte) : (raw20 b0 b1 b2).toNat = b0.toNat * 4096 + b1.toNat * 16 + b2.toNat / 16 := by
  rw [raw20, toNat_append_eq_add, toNat_append_eq_add, toNat_highNibble]
  omega

theorem toNat_raw16 (b0 b1 : Byte) : (raw16 b0 b1).toNat = b0.toNat * 256 + b1.toNat :=
  toNat_append_eq_add b0 b1

end Sys2Proof.Machine
end

section
/-! O56. The records a channel keeps: a rule about each that one more event, or one more bank, does not break. -/

namespace Sys2Proof.Machine

/-! ### Channel A: its accesses (R101, R102) -/

/-- Every bus event of the channel is one that R101 lists. -/
def ChanA.accessesListed (c : ChanA) : Prop := ∀ ev ∈ c.trace, ev.listed

/-- Whatever transaction a command makes, and however it is answered, R101 lists it. -/
theorem listed_of_nextA {i : Instr} {ch : ChanA} {e : ExecA} {k : Nat} {act : ActA} {ans : I2cAnswer} {ev : EventA}
    (h : nextA i ch e k = some act) (hev : act.event e ans = some ev) : ev.listed := by
  have hread : ∀ {addr n}, ActA.event e ans (.read addr n) = some ev → (addr, n) ∈ sensorReads → ev.listed := by
    rintro addr n ⟨⟩ hmem
    exact hmem
  have hwrite : ∀ {addr v}, ActA.event e ans (.write addr [v]) = some ev → addr ∈ sensorWrites →
      (addr = 0xE0 → [v] = [0xB6]) → ev.listed := by
    rintro addr v ⟨⟩ hmem hreset
    exact ⟨hmem, rfl, hreset⟩
  cases i with
  | aId | aStat | aRdraw =>
    rcases k with _ | k <;> cases h
    · exact hread hev (by decide)
    · cases hev
  | aSrst =>
    rcases k with _ | k <;> cases h
    · exact hwrite hev (by decide) fun _ => rfl
    · cases hev
  | aLdcal =>
    rcases k with _ | _ | _ | k
    · simp only [nextA, ldcalNext] at h
      split at h <;> cases h
      · cases hev
      · exact hread hev (by decide)
    all_goals cases h
    · exact hread hev (by decide)
    · exact hread hev (by decide)
    · cases hev
  | aCfg =>
    rcases k with _ | _ | _ | _ | _ | _ | k
    · simp only [nextA, cfgNext] at h
      split at h <;> cases h
      · exact hread hev (by decide)
      · cases hev
    all_goals cases h
    · exact hwrite hev (by decide) fun hsrst => absurd hsrst (by decide)
    · exact hread hev (by decide)
    · exact hwrite hev (by decide) fun hsrst => absurd hsrst (by decide)
    · exact hread hev (by decide)
    · exact hwrite hev (by decide) fun hsrst => absurd hsrst (by decide)
    · cases hev
  | aCompt | aCompp | aCompp64 | aComph | aComphf | aEst =>
    simp only [nextA, comptNext, comppNext, compp64Next, comphNext, comphfNext, estNext] at h
    split at h <;> cases h <;> cases hev
  | _ => cases h

theorem ChanA.accessesListed.concat {c : ChanA} (h : c.accessesListed) {ev : EventA} (hev : ev.listed) :
    ∀ x ∈ c.trace ++ [ev], x.listed :=
  List.forall_mem_append.mpr ⟨h, List.forall_mem_singleton.mpr hev⟩

theorem TurnA.keeps_accessesListed {s : State} {ag : Agent} {c : ChanA} (h : TurnA s ag c)
    (hs : s.a.accessesListed) : c.accessesListed := by
  cases h with
  | kept | accept | hostWrite | complete | raise => exact hs
  | reset => exact nofun
  | read e i k addr n he hd hk hn =>
    rcases memRead_cases e k addr n s with ⟨_, h⟩ | ⟨ans, rest, _, h⟩ <;> rw [h]
    · exact hs
    · exact hs.concat (listed_of_nextA hn rfl)
  | write e i k addr bytes he hd hk hn =>
    rcases memWrite_cases e k addr bytes s with ⟨_, h⟩ | ⟨ans, rest, _, h⟩ <;> rw [h]
    · exact hs
    · exact hs.concat (listed_of_nextA hn rfl)

/-! ### Channel A: `H4` and `H5` (R45) -/

/-- `H4` and `H5` of a bank hold values in −2048..2047. -/
def Cal.nibblesInRange (c : Cal) : Prop :=
  (-2048 ≤ c.h4.toInt ∧ c.h4.toInt ≤ 2047) ∧ (-2048 ≤ c.h5.toInt ∧ c.h5.toInt ≤ 2047)

theorem calDecode_nibblesInRange (c a h : List Byte) : (calDecode c a h).nibblesInRange :=
  ⟨sext12_in_range _ _, sext12_in_range _ _⟩

/-- The bank a command commits, if it commits one, is decoded from bytes (R221). -/
theorem cal_of_nextA {i : Instr} {ch : ChanA} {e : ExecA} {k : Nat} {m : CommitA}
    (h : nextA i ch e k = some (.done m)) : m.cal = none ∨ ∃ b a d, m.cal = some (calDecode b a d) := by
  rcases allowedFor_of_nextA h with ⟨hcal, _⟩ | ⟨rfl, _⟩ | ⟨_, hcal, _⟩
  · exact .inl hcal
  · rcases k with _ | _ | _ | k
    · simp only [nextA, ldcalNext] at h
      split at h <;> cases h
    all_goals cases h
    exact .inr ⟨_, _, _, rfl⟩
  · exact .inl hcal

theorem TurnA.keeps_nibblesInRange {s : State} {ag : Agent} {c : ChanA} (h : TurnA s ag c)
    (hs : s.a.cal.nibblesInRange) : c.cal.nibblesInRange := by
  cases h with
  | kept | accept | hostWrite | raise => exact hs
  | reset =>
    unfold Cal.nibblesInRange
    decide
  | read e i k addr n he =>
    obtain ⟨_, _, heq⟩ := memRead_a he k addr n
    rw [heq]
    exact hs
  | write e i k addr bytes he =>
    obtain ⟨_, _, heq⟩ := memWrite_a he k addr bytes
    rw [heq]
    exact hs
  | complete e i k m he hd hk hn =>
    rw [completeA_a_cal]
    rcases cal_of_nextA hn with hcal | ⟨b, a, d, hcal⟩ <;> rw [hcal]
    · exact hs
    · exact calDecode_nibblesInRange b a d

/-! ### Channel B: the timebase (R58; log 14) -/

/-- The timebase of the channel counts the line time of its trace. -/
def ChanB.timebaseCounts (c : ChanB) : Prop := c.time = lineTime c.trace

theorem lineTime_append (l₁ l₂ : List EventB) : lineTime (l₁ ++ l₂) = lineTime l₁ + lineTime l₂ := by
  induction l₁ with
  | nil => simp [lineTime]
  | cons ev l ih => cases ev <;> simp [lineTime, ih, Nat.add_assoc]

theorem ChanB.timebaseCounts.concat {c : ChanB} (h : c.timebaseCounts) (ev : EventB) :
    c.time + lineTime [ev] = lineTime (c.trace ++ [ev]) := by
  rw [lineTime_append, ← h]

/-- A primitive takes the time its event stands for, a sample none (R12). -/
theorem slotStep_keeps_timebase {s : State} (hs : s.b.timebaseCounts) (ops : List PrimB) (e : ExecB) :
    (slotStep ops e s).b.timebaseCounts := by
  rcases slotStep_cases ops e s with ⟨p, _, h⟩ | ⟨_, h⟩ <;> rw [h]
  · rcases primB_cases p e (e.phase.advance ops.length) s with
      ⟨_, _, h⟩ | ⟨level, _, _, _, h⟩ | ⟨t, _, h⟩ | ⟨t, _, h⟩ | ⟨t, _, h⟩ <;> rw [h]
    · exact hs
    · exact hs.concat (.sample level)
    · exact hs.concat (.driveLow t)
    · exact hs.concat (.release t)
    · exact hs.concat (.wait t)
  · exact hs

theorem TurnB.keeps_timebaseCounts {s : State} {ag : Agent} {c : ChanB} (h : TurnB s ag c)
    (hs : s.b.timebaseCounts) : c.timebaseCounts := by
  cases h with
  | kept | accept | hostWrite | complete | raise => exact hs
  | reset => rfl
  | slot e i act ops => exact slotStep_keeps_timebase hs ops e

/-! ### The records of both channels -/

/-- A rule about channel A alone. -/
theorem keptByStep_of_sideA {Q : ChanA → Prop} (hA : ∀ {s ag c}, TurnA s ag c → Q s.a → Q c) :
    KeptByStep fun s => Q s.a :=
  keptByStep_of_sides (QB := fun _ => True) (fun _ => ⟨fun h => ⟨h, trivial⟩, fun h => h.1⟩) hA fun _ h => h

/-- A rule about channel B alone. -/
theorem keptByStep_of_sideB {Q : ChanB → Prop} (hB : ∀ {s ag c}, TurnB s ag c → Q s.b → Q c) :
    KeptByStep fun s => Q s.b :=
  keptByStep_of_sides (QA := fun _ => True) (fun _ => ⟨fun h => ⟨trivial, h⟩, fun h => h.2⟩) (fun _ h => h) hB

/-- Settles O56: each of the three records is one channel's, and every turn keeps it of that channel. -/
theorem recordsKept : Obligations.RecordsKept :=
  ⟨keptByStep_of_sideA (Q := ChanA.accessesListed) TurnA.keeps_accessesListed,
    keptByStep_of_sideA (Q := fun c => c.cal.nibblesInRange) TurnA.keeps_nibblesInRange,
    keptByStep_of_sideB (Q := ChanB.timebaseCounts) TurnB.keeps_timebaseCounts⟩

end Sys2Proof.Machine
end

section
/-! O21, O26. A command whose reads are all answered with as many bytes as it asked for: each read is one step that stages
its bytes, and the completion decodes what is staged. -/

namespace Sys2Proof.Machine

/-- `s` after primitive `k` of channel A's command, a read of `n` bytes that brought `bytes`. -/
def State.hasRead (s : State) (e : ExecA) (k : Nat) (addr : Byte) (n : Nat) (bytes : List Byte)
    (rest : List I2cAnswer) : State :=
  { s with
    i2c := rest
    a := { s.a with
      trace := s.a.trace ++ [.memRead e.dev addr n (.ok bytes)]
      seq := .exec { e with phase := .prim (k + 1), staged := e.staged ++ [bytes] } } }

section
variable {i : Instr} {next : ChanA → ExecA → Nat → ActA} {s : State} {e : ExecA} {k : Nat}

theorem IsStepA.exec_read (hi : IsStepA i next) (hs : s.a.seq = .exec e) (hp : e.phase = .prim k) {addr : Byte} {n : Nat}
    {bytes : List Byte} {rest : List I2cAnswer} (hn : next s.a e k = .read addr n) (hlen : bytes.length = n)
    (hi2c : s.i2c = .ok bytes :: rest) : exec i s = .next (s.hasRead e k addr n bytes rest) := by
  rw [hi s, stepA_prim (next s.a) hs hp, hn]
  simp [ActA.perform, memRead, hi2c, I2cAnswer.sized, hlen, I2cAnswer.bytes, ExecA.answered, State.hasRead]

theorem IsStepA.execTimes_read (hi : IsStepA i next) (m : Nat) (hs : s.a.seq = .exec e) (hp : e.phase = .prim k)
    {addr : Byte} {n : Nat} {bytes : List Byte} {rest : List I2cAnswer} (hn : next s.a e k = .read addr n)
    (hlen : bytes.length = n) (hi2c : s.i2c = .ok bytes :: rest) :
    execTimes (m + 1) i s = execTimes m i (s.hasRead e k addr n bytes rest) :=
  execTimes_succ m i s _ (hi.exec_read hs hp hn hlen hi2c)

theorem IsStepA.exec_done (hi : IsStepA i next) (hs : s.a.seq = .exec e) (hp : e.phase = .prim k) {c : CommitA}
    (hn : next s.a e k = .done c) : exec i s = .next (completeA c s) := by
  rw [hi s, stepA_prim (next s.a) hs hp, hn]
  rfl

end

/-- Settles O26: one read, then the completion with the three codes. -/
theorem rdrawCompletes : Obligations.RdrawCompletes := by
  intro s w args dev d0 d1 d2 d3 d4 d5 d6 d7 rest hs hi2c
  have hi : IsStepA .aRdraw fun _ => rdrawNext := fun _ => rfl
  refine ⟨_, zext32 (raw20 d0 d1 d2), zext32 (raw20 d3 d4 d5), zext32 (raw16 d6 d7), hi.exec_read hs rfl rfl rfl hi2c,
    (hi.exec_done rfl rfl rfl).trans rfl, ?pressure, ?temperature, ?humidity⟩
  case pressure => rw [toNat_zext32 _ (by decide), toNat_raw20]
  case temperature => rw [toNat_zext32 _ (by decide), toNat_raw20]
  case humidity => rw [toNat_zext32 _ (by decide), toNat_raw16]

/-- Settles O21: three reads, then the completion with the bank decoded from them. -/
theorem ldcalCompletes : Obligations.LdcalCompletes := by
  intro s w args dev c a h rest hs hvalid hc ha hh hi2c
  have hi : IsStepA .aLdcal fun ch => ldcalNext ch.regs.valid := fun _ => rfl
  have hunlocked : ldcalNext s.a.regs.valid ⟨w, args, dev, .prim 0, []⟩ 0 = .read 0x88 24 := by
    rw [hvalid]
    rfl
  have hreads := (hi.execTimes_read 2 hs rfl hunlocked hc hi2c).trans
    ((hi.execTimes_read 1 rfl rfl rfl ha rfl).trans (hi.execTimes_read 0 rfl rfl rfl hh rfl))
  refine ⟨_, calDecode c a h, hreads, (hi.exec_done rfl rfl rfl).trans ?commit, ?pairs, rfl, toNat_pair16 _ _, rfl, ?h4,
    ?h5, rfl⟩
  case commit => simp [completeA, State.hasRead, State.endA, Quad.commit]
  case pairs =>
    simp only [calDecode, List.map_cons, List.map_nil, toNat_pair16]
    rfl
  case h4 => exact (toInt_sext12 _ _).trans (by rw [toNat_lowNibble])
  case h5 => exact (toInt_sext12 _ _).trans (by rw [toNat_highNibble])

end Sys2Proof.Machine
end

section
/-! O12 to O15. A command word is its three fields, and decoding it reads them: the word decodes to `i` exactly when it
stands at `i`'s place, `RSV` is 0, `OP` is `i`'s opcode and `LEN` is `i`'s operand. Encoding writes the same three
fields, and a row of the opcode table fixes them (30_encoding.md section 1). -/

namespace Sys2Proof

open Machine

/-! ### The fields of a command word (R150) -/

theorem rsvField_append (r : BitVec 19) (l : BitVec 5) (o : Byte) : rsvField (r ++ (l ++ o)) = r :=
  BitVec.extractLsb'_append_eq_left

theorem lenField_append (r : BitVec 19) (l : BitVec 5) (o : Byte) : lenField (r ++ (l ++ o)) = l :=
  (BitVec.extractLsb'_append_eq_of_add_le (by decide)).trans BitVec.extractLsb'_append_eq_left

theorem opField_append (r : BitVec 19) (l : BitVec 5) (o : Byte) : opField (r ++ (l ++ o)) = o :=
  (BitVec.extractLsb'_append_eq_of_add_le (by decide)).trans BitVec.extractLsb'_append_eq_right

/-- The fields leave no bit of the word out. -/
theorem fields_append (w : Word) : rsvField w ++ (lenField w ++ opField w) = w :=
  (congrArg (rsvField w ++ ·) (BitVec.extractLsb'_append_extractLsb'_eq_extractLsb' (x := w) rfl)).trans
    (BitVec.extractLsb'_append_extractLsb' (w := 19) (len := 13) (x := w))

theorem append_eq_iff_fields (r : BitVec 19) (l : BitVec 5) (o : Byte) (w : Word) :
    r ++ (l ++ o) = w ↔ rsvField w = r ∧ lenField w = l ∧ opField w = o := by
  constructor
  · rintro rfl
    exact ⟨rsvField_append r l o, lenField_append r l o, opField_append r l o⟩
  · rintro ⟨rfl, rfl, rfl⟩
    exact fields_append w

theorem encode_eq_iff (i : Instr) (w : Word) :
    encode i = w ↔ rsvField w = 0 ∧ lenField w = BitVec.ofNat 5 i.lenOperand ∧ opField w = i.opcode :=
  append_eq_iff_fields _ _ _ w

/-- A word that holds only a byte has it in `OP`. -/
theorem setWidth_byte_eq_iff (v : Byte) (w : Word) :
    v.setWidth 32 = w ↔ rsvField w = 0 ∧ lenField w = 0 ∧ opField w = v := by
  have happend : v.setWidth 32 = (0 : BitVec 19) ++ ((0 : BitVec 5) ++ v) := by
    apply BitVec.eq_of_toNat_eq
    rw [toNat_append_eq_add, toNat_append_eq_add, BitVec.toNat_setWidth_of_le (by decide)]
    simp
  rw [happend, append_eq_iff_fields]

theorem rsvField_and (x y : Word) : rsvField (x &&& y) = rsvField x &&& rsvField y := BitVec.extractLsb'_and

theorem lenField_and (x y : Word) : lenField (x &&& y) = lenField x &&& lenField y := BitVec.extractLsb'_and

theorem opField_and (x y : Word) : opField (x &&& y) = opField x &&& opField y := BitVec.extractLsb'_and

/-! ### The operand of an instruction -/

theorem takesLen_iff_opcode (i : Instr) : i.takesLen = true ↔ i.opcode = 0x20 := by
  cases i <;> simp [Instr.takesLen, Instr.opcode]

theorem lenOperand_of_not_takesLen {i : Instr} (h : i.takesLen = false) : i.lenOperand = 0 := by
  cases i with
  | bCrc8 len => cases h
  | _ => rfl

theorem not_takesLen_of_place_bus {i : Instr} (h : i.place = .bus) : i.takesLen = false := by
  cases i with
  | owSkipRom | owConvertT | owReadScratchpad | owWriteScratchpad => rfl
  | _ => cases h

/-- An instruction stands for an encoding when its operand fits `LEN`. -/
theorem wellFormed_iff (i : Instr) : i.wellFormed = true ↔ i.lenOperand < 2 ^ 5 := by
  cases i <;> simp [Instr.wellFormed, Instr.lenOperand]

/-- `LEN` holds the operand of a well-formed instruction, and of no other. -/
theorem lenOperand_eq_toNat_iff (i : Instr) (l : BitVec 5) :
    i.lenOperand = l.toNat ↔ i.wellFormed = true ∧ l = BitVec.ofNat 5 i.lenOperand := by
  rw [wellFormed_iff]
  constructor
  · intro h
    rw [h]
    exact ⟨l.isLt, by rw [BitVec.ofNat_toNat, BitVec.setWidth_eq]⟩
  · rintro ⟨hlt, hl⟩
    rw [hl, BitVec.toNat_ofNat, Nat.mod_eq_of_lt hlt]

/-- Where the command has no operand, the operand that `LEN` holds is 0. -/
theorem lenOperand_eq_toNat_iff_of_not_takesLen {i : Instr} (h : i.takesLen = false) (l : BitVec 5) :
    i.lenOperand = l.toNat ↔ l = 0 := by
  rw [lenOperand_of_not_takesLen h, eq_comm, ← BitVec.toNat_inj]
  rfl

/-! ### What decodes to an instruction -/

/-- With distinct keys, a lookup finds every entry. -/
theorem lookup_eq_some_iff_mem {α β : Type} [BEq α] [LawfulBEq α] {l : List (α × β)} (h : (l.map Prod.fst).Nodup)
    (x : α) (y : β) : l.lookup x = some y ↔ (x, y) ∈ l := by
  refine ⟨mem_of_lookup_eq_some, fun hmem => ?_⟩
  obtain ⟨l₁, l₂, rfl⟩ := List.append_of_mem hmem
  refine List.lookup_eq_some_iff.mpr ⟨l₁, l₂, rfl, fun p hp => bne_iff_ne.mpr ?_⟩
  rintro rfl
  rw [List.map_append, List.nodup_append] at h
  obtain ⟨_, _, hdisjoint⟩ := h
  exact hdisjoint _ (List.mem_map_of_mem hp) _ (List.mem_map_of_mem List.mem_cons_self) rfl

theorem lookup_opcodeMap_iff (ch : Channel) (len : Nat) (b : Byte) (i : Instr) :
    (opcodeMap ch len).lookup b = some i ↔ (b, i) ∈ opcodeMap ch len :=
  lookup_eq_some_iff_mem (by cases ch <;> simp [opcodeMap, opcodeMapA, opcodeMapB]) b i

theorem mem_opcodeMap_iff (ch : Channel) (len : Nat) (b : Byte) (i : Instr) :
    (b, i) ∈ opcodeMap ch len ↔
      i.place = .channel ch ∧ i.opcode = b ∧ (i.takesLen = true → i.lenOperand = len) := by
  cases ch <;> cases i <;>
    simp [opcodeMap, opcodeMapA, opcodeMapB, Instr.place, Instr.opcode, Instr.takesLen, Instr.lenOperand, eq_comm,
      and_comm]

theorem mem_busByteMap_iff (v : Byte) (i : Instr) : (v, i) ∈ busByteMap ↔ i.place = .bus ∧ i.opcode = v := by
  cases i <;> simp [busByteMap, Instr.place, Instr.opcode, eq_comm]

/-- A word decodes when it passes the three checks of R155. -/
theorem decode_eq_ok_iff_mem (ch : Channel) (w : Word) (i : Instr) :
    decode ch w = .ok i ↔
      rsvField w = 0 ∧ (opField w, i) ∈ opcodeMap ch (lenField w).toNat ∧ (lenField w = 0 ∨ i.takesLen = true) := by
  rw [← lookup_opcodeMap_iff]
  unfold decode
  by_cases hrsv : rsvField w = 0
  · rw [if_neg (not_not_intro hrsv)]
    cases (opcodeMap ch (lenField w).toNat).lookup (opField w) with
    | none => simp
    | some j =>
      by_cases hlen : lenField w ≠ 0 ∧ j.takesLen = false
      · obtain ⟨hne, hj⟩ := hlen
        simp only [if_pos (And.intro hne hj)]
        constructor
        · nofun
        · rintro ⟨_, ⟨rfl⟩, h | h⟩
          · exact absurd h hne
          · exact absurd h (by simp [hj])
      · have hpass : lenField w = 0 ∨ j.takesLen = true :=
          (Decidable.not_and_iff_not_or_not.mp hlen).imp not_not.mp Bool.eq_true_of_not_eq_false
        simp only [if_neg hlen]
        constructor
        · rintro ⟨rfl⟩
          exact ⟨hrsv, rfl, hpass⟩
        · rintro ⟨_, ⟨rfl⟩, _⟩
          rfl
  · rw [if_pos hrsv]
    exact ⟨nofun, fun h => absurd h.1 hrsv⟩

/-- A word decodes to `i` exactly when it stands at `i`'s place and its fields are those of `i`. -/
theorem decode_eq_ok_iff (ch : Channel) (w : Word) (i : Instr) :
    decode ch w = .ok i ↔
      i.place = .channel ch ∧ rsvField w = 0 ∧ opField w = i.opcode ∧ i.lenOperand = (lenField w).toNat := by
  rw [decode_eq_ok_iff_mem, mem_opcodeMap_iff]
  cases hi : i.takesLen with
  | true => simp [eq_comm, and_left_comm]
  | false => simp [lenOperand_eq_toNat_iff_of_not_takesLen hi, eq_comm, and_left_comm, and_assoc]

theorem decodeBus_eq_ok_iff (v : Byte) (i : Instr) : decodeBus v = .ok i ↔ i.place = .bus ∧ i.opcode = v := by
  rw [← mem_busByteMap_iff, ← lookup_eq_some_iff_mem (by simp [busByteMap]), decodeBus]
  cases busByteMap.lookup v <;> simp

/-- Settles O12: the words and bytes as the maps list them. -/
theorem decodeSpecWords : Obligations.DecodeSpecWords := by
  unfold Obligations.DecodeSpecWords
  decide

/-! ### Illegal words (R155) -/

/-- The opcodes of a channel (R153, R154). -/
def opcodes (ch : Channel) : List Byte := (opcodeMap ch 0).map Prod.fst

theorem map_fst_opcodeMap (ch : Channel) (len : Nat) : (opcodeMap ch len).map Prod.fst = opcodes ch := by
  cases ch <;> rfl

theorem exists_decode_ok_iff (ch : Channel) (w : Word) :
    (∃ i, decode ch w = .ok i) ↔
      opField w ∈ opcodes ch ∧ rsvField w = 0 ∧ (lenField w = 0 ∨ opField w = 0x20) := by
  simp only [decode_eq_ok_iff_mem]
  constructor
  · rintro ⟨i, hrsv, hmem, hlen⟩
    obtain ⟨_, hop, _⟩ := (mem_opcodeMap_iff _ _ _ _).mp hmem
    rw [takesLen_iff_opcode, hop] at hlen
    exact ⟨map_fst_opcodeMap ch (lenField w).toNat ▸ List.mem_map_of_mem hmem, hrsv, hlen⟩
  · rintro ⟨hmem, hrsv, hlen⟩
    rw [← map_fst_opcodeMap ch (lenField w).toNat] at hmem
    obtain ⟨⟨b, i⟩, hmem, rfl⟩ := List.mem_map.mp hmem
    obtain ⟨_, hop, _⟩ := (mem_opcodeMap_iff _ _ _ _).mp hmem
    rw [← hop, ← takesLen_iff_opcode] at hlen
    exact ⟨i, hrsv, hmem, hlen⟩

theorem exists_decode_error_iff (ch : Channel) (w : Word) :
    (∃ r, decode ch w = .error r) ↔
      opField w ∉ opcodes ch ∨ rsvField w ≠ 0 ∨ (lenField w ≠ 0 ∧ opField w ≠ 0x20) := by
  have hnot : (∃ r, decode ch w = .error r) ↔ ¬ ∃ i, decode ch w = .ok i := by cases decode ch w <;> simp
  rw [hnot, exists_decode_ok_iff]
  simp only [not_and_or, not_or, ne_eq]

/-- Settles O13: the illegal words by `exists_decode_error_iff`, where channel A has no `CRC8`; and a turn with such a
word raises the code. -/
theorem illegalWordsComplete : Obligations.IllegalWordsComplete := by
  refine ⟨fun w => ?wordsA, fun w => exists_decode_error_iff .b w, fun s e q r hq hs hd => ?stepA,
    fun s e q r hq hs hd => ?stepB⟩
  case wordsA =>
    have hcrc : opField w = 0x20 → opField w ∉ opcodes .a := by
      intro h
      rw [h]
      decide
    refine (exists_decode_error_iff .a w).trans ⟨?_, ?_⟩
    · rintro (h | h | ⟨h, _⟩)
      exacts [.inl h, .inr (.inl h), .inr (.inr h)]
    · rintro (h | h | h)
      · exact .inl h
      · exact .inr (.inl h)
      · exact (em (opField w = 0x20)).elim (fun h' => .inl (hcrc h')) fun h' => .inr (.inr ⟨h, h'⟩)
  case stepA =>
    simp only [step, hq, turn, fetchA, hs, hd, runFetched]
    rfl
  case stepB =>
    simp only [step, hq, turn, fetchB, hs, hd, runFetched]
    rfl

/-! ### The opcode table (R156) -/

/-- The mask of an instruction's row: the whole encoding but for an operand field. -/
def Instr.mask (i : Instr) : Word :=
  match i.place with
  | .bus => 0x000000FF
  | .channel _ => if i.takesLen then 0xFFFFE0FF else 0xFFFFFFFF

/-- The row of an instruction in the opcode table. -/
def Instr.row (i : Instr) : Row := ⟨i.mnemonic, i.place, i.opcode.setWidth 32, i.mask⟩

theorem row_mem_opcodeTable (i : Instr) : i.row ∈ opcodeTable := by
  cases i <;> simp [Instr.row, Instr.mask, opcodeTable, Instr.mnemonic, Instr.place, Instr.opcode, Instr.takesLen]

theorem nodup_mnemonics : (opcodeTable.map Row.mnemonic).Nodup := by
  simp [opcodeTable]

/-- An instruction's row is the one with its mnemonic. -/
theorem eq_row_iff (i : Instr) (r : Row) : r ∈ opcodeTable ∧ r.mnemonic = i.mnemonic ↔ r = i.row := by
  constructor
  · rintro ⟨hr, hname⟩
    exact List.inj_on_of_nodup_map nodup_mnemonics hr (row_mem_opcodeTable i) hname
  · rintro rfl
    exact ⟨row_mem_opcodeTable i, rfl⟩

/-- The mask of a command's row leaves out `LEN` where that is an operand, and nothing else. -/
theorem fields_mask {i : Instr} {ch : Channel} (h : i.place = .channel ch) :
    rsvField i.mask = BitVec.allOnes 19 ∧ lenField i.mask = (if i.takesLen then 0 else BitVec.allOnes 5) ∧
    opField i.mask = BitVec.allOnes 8 := by
  rw [Instr.mask, h]
  cases ch <;> cases i.takesLen <;> decide

/-- The pattern of a command's row under its mask fixes `RSV`, `OP` and, where the command has no operand, `LEN`. -/
theorem and_mask_eq_iff {i : Instr} {ch : Channel} (h : i.place = .channel ch) (w : Word) :
    w &&& i.mask = i.opcode.setWidth 32 ↔
      rsvField w = 0 ∧ opField w = i.opcode ∧ (i.takesLen = true ∨ lenField w = 0) := by
  obtain ⟨hrsv, hlen, hop⟩ := fields_mask h
  rw [eq_comm, setWidth_byte_eq_iff, rsvField_and, lenField_and, opField_and, hrsv, hlen, hop, BitVec.and_allOnes,
    BitVec.and_allOnes]
  cases i.takesLen with
  | true => simp
  | false => simp only [Bool.false_eq_true, if_false, BitVec.and_allOnes, false_or, and_comm]

theorem row_matchesWord_iff (i : Instr) (ch : Channel) (w : Word) :
    i.row.matchesWord (.channel ch) w = true ↔ i.place = .channel ch ∧ w &&& i.mask = i.opcode.setWidth 32 := by
  simp only [Row.matchesWord, Instr.row, Bool.and_eq_true, beq_iff_eq]

/-- Settles O14: the row of `i` and the operand together fix the three fields. -/
theorem decodeAgreesWithTable : Obligations.DecodeAgreesWithTable := by
  intro ch w i
  have hrow : (∃ r ∈ opcodeTable, r.mnemonic = i.mnemonic ∧ r.matchesWord (.channel ch) w = true) ↔
      i.place = .channel ch ∧ w &&& i.mask = i.opcode.setWidth 32 := by
    simp only [← and_assoc, eq_row_iff, exists_eq_left, row_matchesWord_iff]
  have hlen : i.lenOperand = (lenField w).toNat → i.takesLen = true ∨ lenField w = 0 := by
    intro h
    cases hi : i.takesLen with
    | true => exact .inl rfl
    | false => exact .inr ((lenOperand_eq_toNat_iff_of_not_takesLen hi _).mp h)
  rw [decode_eq_ok_iff, hrow]
  constructor
  · rintro ⟨hplace, hrsv, hop, hl⟩
    exact ⟨⟨hplace, (and_mask_eq_iff hplace w).mpr ⟨hrsv, hop, hlen hl⟩⟩, hl⟩
  · rintro ⟨⟨hplace, hmask⟩, hl⟩
    obtain ⟨hrsv, hop, _⟩ := (and_mask_eq_iff hplace w).mp hmask
    exact ⟨hplace, hrsv, hop, hl⟩

/-! ### Decoding and encoding -/

theorem decode_eq_ok_iff_encode (ch : Channel) (w : Word) (i : Instr) :
    decode ch w = .ok i ↔ i.wellFormed = true ∧ i.place = .channel ch ∧ encode i = w := by
  rw [decode_eq_ok_iff, lenOperand_eq_toNat_iff, encode_eq_iff]
  constructor
  · rintro ⟨hplace, hrsv, hop, hwf, hlen⟩
    exact ⟨hwf, hplace, hrsv, hlen, hop⟩
  · rintro ⟨hwf, hplace, hrsv, hlen, hop⟩
    exact ⟨hplace, hrsv, hop, hwf, hlen⟩

theorem encode_of_place_bus {i : Instr} (h : i.place = .bus) : encode i = i.opcode.setWidth 32 := by
  rw [eq_comm, setWidth_byte_eq_iff, encode, lenOperand_of_not_takesLen (not_takesLen_of_place_bus h)]
  exact ⟨rsvField_append _ _ _, lenField_append _ _ _, opField_append _ _ _⟩

theorem decodeBus_eq_ok_iff_encode (v : Byte) (i : Instr) :
    decodeBus v = .ok i ↔ i.wellFormed = true ∧ i.place = .bus ∧ encode i = v.setWidth 32 := by
  rw [decodeBus_eq_ok_iff]
  constructor
  · rintro ⟨hplace, rfl⟩
    refine ⟨?_, hplace, encode_of_place_bus hplace⟩
    rw [wellFormed_iff, lenOperand_of_not_takesLen (not_takesLen_of_place_bus hplace)]
    decide
  · rintro ⟨_, hplace, henc⟩
    obtain ⟨_, _, hop⟩ := (setWidth_byte_eq_iff v _).mp henc.symm
    exact ⟨hplace, (opField_append _ _ _).symm.trans hop⟩

/-- The two channels' maps share no opcode: those below 0x10 are channel A's (R153, R154). -/
theorem opcode_lt_of_place {i : Instr} {ch : Channel} (h : i.place = .channel ch) : i.opcode < 0x10 ↔ ch = .a := by
  cases i with
  | owSkipRom | owConvertT | owReadScratchpad | owWriteScratchpad => cases h
  | _ =>
    cases h
    simp [Instr.opcode]

/-- A word of channel B's map is no command of channel A. -/
theorem decode_a_error_of_decode_b {w : Word} {i : Instr} (h : decode .b w = .ok i) : ∃ r, decode .a w = .error r := by
  obtain ⟨hplace, _, hop, _⟩ := (decode_eq_ok_iff .b w i).mp h
  cases hj : decode .a w with
  | error r => exact ⟨r, rfl⟩
  | ok j =>
    obtain ⟨hplacej, _, hopj, _⟩ := (decode_eq_ok_iff .a w j).mp hj
    have hlt := (opcode_lt_of_place hplacej).mpr rfl
    rw [← hopj, hop, opcode_lt_of_place hplace] at hlt
    cases hlt

theorem decodeTableWord_encode {i : Instr} (hwf : i.wellFormed = true) :
    decodeTableWord i.place.nbits (encode i).toNat = some i := by
  cases hplace : i.place with
  | bus =>
    have hbyte : BitVec.ofNat 8 (encode i).toNat = i.opcode := by
      rw [BitVec.ofNat_toNat, BitVec.setWidth_eq_extractLsb' (by decide)]
      exact opField_append _ _ _
    have hd : decodeBus i.opcode = .ok i := (decodeBus_eq_ok_iff _ _).mpr ⟨hplace, rfl⟩
    simp only [decodeTableWord, Place.nbits, hbyte, hd]
    rfl
  | channel ch =>
    have hword : BitVec.ofNat 32 (encode i).toNat = encode i := by rw [BitVec.ofNat_toNat, BitVec.setWidth_eq]
    have hd : decode ch (encode i) = .ok i := (decode_eq_ok_iff_encode _ _ _).mpr ⟨hwf, hplace, rfl⟩
    simp only [decodeTableWord, Place.nbits, hword]
    cases ch with
    | a =>
      simp only [hd]
      rfl
    | b =>
      obtain ⟨r, ha⟩ := decode_a_error_of_decode_b hd
      simp only [ha, hd]
      rfl

/-- Settles O15: the fields that decoding reads are those that encoding writes. -/
theorem decodeEncodeAgree : Obligations.DecodeEncodeAgree :=
  ⟨decode_eq_ok_iff_encode, decodeBus_eq_ok_iff_encode, fun _ => decodeTableWord_encode⟩

end Sys2Proof
end

section
/-! O17. Where a channel-B command sends a single-wire command byte, it sends one of R170's four, and going on with it
is one and the same primitive, whether the command or the byte's own instruction runs (log 13). -/

namespace Sys2Proof.Machine

/-- The bytes the commands send are single-wire command bytes (R450, R460, R470). -/
theorem mem_keys_of_nextB_bus {i : Instr} {e : ExecB} {v : Byte} (h : nextB i e = some (.bus v)) :
    v ∈ busByteMap.map Prod.fst := by
  cases i with
  | bOwrst | bOwwbit | bOwrbit | bOwwbyte | bOwrbyte =>
    simp only [nextB, owrstNext, owwbitNext, owrbitNext, owwbyteNext, owrbyteNext] at h
    split at h <;> cases h
  | bOwinit | bOwconv | bOwrsp =>
    simp only [nextB, owinitNext, owconvNext, owrspNext] at h
    repeat' split at h
    all_goals cases h
    all_goals decide
  | bCrc8 len =>
    simp only [nextB, crc8Next] at h
    split at h <;> cases h
  | _ => cases h

theorem exists_decodeBus_of_mem_keys {v : Byte} (h : v ∈ busByteMap.map Prod.fst) : ∃ j, decodeBus v = .ok j := by
  obtain ⟨⟨b, j⟩, hmem, rfl⟩ := List.mem_map.mp h
  exact ⟨j, (decodeBus_eq_ok_iff b j).mpr ((mem_busByteMap_iff b j).mp hmem)⟩

theorem currentB_of_bus {i j : Instr} {e : ExecB} {v : Byte} (h : nextB i e = some (.bus v))
    (hj : decodeBus v = .ok j) : currentB i e = j := by
  have hbyte : busByteAt i e = some v := by simp only [busByteAt, h]
  simp only [currentB, hbyte, hj]

/-- A channel-B command, run as itself, does what `nextB` says of it. -/
theorem exec_of_nextB {i : Instr} (hi : i.place = .channel .b) {s : State} {e : ExecB} {act : ActB}
    (hs : s.b.seq = .exec e) (h : nextB i e = some act) : exec i s = .next (act.perform e s) := by
  obtain ⟨next, hnext, hexec⟩ := exec_channelB i hi s
  have hact : next e = act := Option.some.inj ((hnext e).symm.trans h)
  rw [hexec, stepB_exec next hs, hact]

/-- Settles O17: what the turn fetches there is the byte's instruction, and it does what the command does. -/
theorem busByteRunsAsInstruction : Obligations.BusByteRunsAsInstruction := by
  intro s e q i v hq hs hd hbus
  have hmem := mem_keys_of_nextB_bus hbus
  obtain ⟨j, hj⟩ := exists_decodeBus_of_mem_keys hmem
  have hcur := currentB_of_bus hbus hj
  refine ⟨hmem, j, hj, ?turn, ?same⟩
  case turn => simp only [step, hq, turn, fetchB, hs, hd, runFetched, hcur]
  case same =>
    obtain ⟨act, hact, hexec⟩ := exec_currentB (s := { s with schedule := q }) (place_of_decode hd) hs
    rw [hcur] at hexec
    rw [hexec, exec_of_nextB (s := { s with schedule := q }) (place_of_decode hd) hs hact]

end Sys2Proof.Machine
end

section
/-! O24, O47. Commands that check their operands in their first step (R162, R163). -/

namespace Sys2Proof.Machine

theorem IsStepA.exec_raise {i : Instr} {next : ChanA → ExecA → Nat → ActA} (hi : IsStepA i next) {s : State} {e : ExecA}
    {k : Nat} {code : ErrCode} (hs : s.a.seq = .exec e) (hp : e.phase = .prim k) (hn : next s.a e k = .raise code) :
    exec i s = .next (raiseA code s) := by
  rw [hi s, stepA_prim (next s.a) hs hp, hn]
  rfl

/-- A SensorConfig is invalid when a field code is past its last one, or the mode is the reserved 2 (R162). -/
theorem SensorConfig.valid_eq_false_iff (c : SensorConfig) :
    c.valid = false ↔
      5 < c.osrsT.toNat ∨ 5 < c.osrsP.toNat ∨ 5 < c.osrsH.toNat ∨ 4 < c.filter.toNat ∨ c.mode = 2 := by
  simp only [SensorConfig.valid, Bool.and_eq_false_iff, decide_eq_false_iff_not, BitVec.le_def, Nat.not_le,
    bne_eq_false_iff_eq, or_assoc]
  rfl

/-- Settles O24: both commands look at the operand first, and raise. -/
theorem invalidConfigRefused : Obligations.InvalidConfigRefused := by
  intro s e i hs hp hi hbad
  have hinvalid : (configArg e.args).valid = false := (SensorConfig.valid_eq_false_iff _).mpr hbad
  simp only [List.mem_cons, List.not_mem_nil, or_false] at hi
  rcases hi with rfl | rfl
  · have hcfg : IsStepA .aCfg fun _ => cfgNext := fun _ => rfl
    exact hcfg.exec_raise hs hp (by simp [cfgNext, hinvalid])
  · have hest : IsStepA .aEst fun _ => estNext := fun _ => rfl
    exact hest.exec_raise hs hp (by simp [estNext, hinvalid])

/-- Byte `k` of the arguments is byte `k` of the four registers put together, `ARG[0]` lowest (R113, R160). -/
theorem argByte_eq_extractLsb' (args : Quad) {k : Nat} (hk : k < 16) :
    argByte args k = (args.r3 ++ (args.r2 ++ (args.r1 ++ args.r0))).extractLsb' (8 * k) 8 := by
  unfold argByte wordByte
  by_cases h0 : k < 4
  · rw [if_pos h0, BitVec.extractLsb'_append_eq_of_add_le (by omega), BitVec.extractLsb'_append_eq_of_add_le (by omega),
      BitVec.extractLsb'_append_eq_of_add_le (by omega)]
  rw [if_neg h0]
  by_cases h1 : k < 8
  · rw [if_pos h1, BitVec.extractLsb'_append_eq_of_add_le (by omega), BitVec.extractLsb'_append_eq_of_add_le (by omega),
      BitVec.extractLsb'_append_eq_of_le (by omega), Nat.mul_sub]
  rw [if_neg h1]
  by_cases h2 : k < 12
  · rw [if_pos h2, BitVec.extractLsb'_append_eq_of_add_le (by omega), BitVec.extractLsb'_append_eq_of_le (by omega),
      Nat.mul_sub]
  · rw [if_neg h2, BitVec.extractLsb'_append_eq_of_le (by omega), Nat.mul_sub]

/-- `CRC8` takes its input bytes from the low end of the four arguments (R163). -/
theorem crcInput_eq_map (args : Quad) {len : Nat} (h : len ≤ 16) :
    crcInput args len = (List.range len).map fun k =>
      (args.r3 ++ (args.r2 ++ (args.r1 ++ args.r0))).extractLsb' (8 * k) 8 :=
  List.map_congr_left fun _ hk => argByte_eq_extractLsb' args (by have := List.mem_range.mp hk; omega)

/-- Settles O47: the one step looks at `LEN`, then completes or raises. -/
theorem crcEightCompletes : Obligations.CrcEightCompletes := by
  intro s e len hs
  have hexec {act : ActB} (h : crc8Next len e = act) : exec (.bCrc8 len) s = .next (act.perform e s) :=
    exec_of_nextB rfl hs (congrArg some h)
  refine ⟨fun hle => ?_, fun hlt => ?_⟩
  · rw [hexec (if_neg (Nat.not_lt.mpr hle)), crcInput_eq_map e.args hle]
    rfl
  · rw [hexec (if_pos hlt)]
    rfl

end Sys2Proof.Machine
end

section
/-! O40, O49. A line of a channel-B command, sent whole. What a slot sequence does is read off the trace it leaves: each
event is the record of one primitive, and with the level a sample brought it says all that the primitive did (R59). -/

namespace Sys2Proof.Machine

/-! ### Runs of one instruction -/

theorem exists_execTimes_next (n : Nat) (i : Instr) (s : State) : ∃ t, execTimes n i s = .next t := by
  induction n generalizing s with
  | zero => exact ⟨s, rfl⟩
  | succ n ih =>
    obtain ⟨u, hu⟩ := exec_next i s
    rw [execTimes_succ n i s u hu]
    exact ih u

/-- The last step of a run. -/
theorem exists_last_step_of_execTimes {n : Nat} {i : Instr} {s t : State} (h : execTimes (n + 1) i s = .next t) :
    ∃ s1, execTimes n i s = .next s1 ∧ exec i s1 = .next t := by
  obtain ⟨s1, hs1⟩ := exists_execTimes_next n i s
  obtain ⟨u, hu⟩ := exec_next i s1
  rw [execTimes_add n 1 i s s1 hs1, execTimes_succ 0 i s1 u hu] at h
  exact ⟨s1, hs1, hu.trans h⟩

/-! ### What an event records -/

/-- The primitive that an event records. -/
def EventB.prim : EventB → PrimB
  | .driveLow t => .driveLow t
  | .release t => .release t
  | .wait t => .wait t
  | .sample _ => .sample

/-- The levels that a trace records, oldest first. -/
def levels : List EventB → List Bool
  | [] => []
  | .sample level :: tr => level :: levels tr
  | .driveLow _ :: tr => levels tr
  | .release _ :: tr => levels tr
  | .wait _ :: tr => levels tr

theorem levels_append (tr tr' : List EventB) : levels (tr ++ tr') = levels tr ++ levels tr' := by
  induction tr with
  | nil => rfl
  | cons ev tr ih => cases ev <;> simp [levels, ih]

/-- The line after a trace that began with the line at `d` (R57). -/
def driveFrom (d : LineDrive) (tr : List EventB) : LineDrive := tr.foldl (fun d ev => ev.prim.drives d) d

/-- `s` with channel B's command standing as `e`, after primitives that left the trace `tr` and the samples still to
come in `owline`. -/
def State.sentB (s : State) (e : ExecB) (tr : List EventB) (owline : List Bool) : State :=
  { s with
    owline := owline
    b := { s.b with
      drive := driveFrom s.b.drive tr, time := s.b.time + lineTime tr, trace := s.b.trace ++ tr, seq := .exec e } }

theorem sentB_sentB (s : State) (e e' : ExecB) (tr tr' : List EventB) (o o' : List Bool) :
    (s.sentB e tr o).sentB e' tr' o' = s.sentB e' (tr ++ tr') o' := by
  simp [State.sentB, driveFrom, lineTime_append, Nat.add_assoc]

/-! ### A slot sequence, primitive by primitive -/

/-- Each primitive leaves its event. -/
theorem primB_eq_sentB (ev : EventB) {s : State} (e : ExecB) (phase : PhaseB) {rest : List Bool}
    (howl : s.owline = levels [ev] ++ rest) :
    primB ev.prim e phase s = s.sentB { e with phase := phase, staged := e.staged ++ levels [ev] } [ev] rest := by
  cases ev with
  | sample level =>
    have h : s.owline = level :: rest := howl
    simp [EventB.prim, primB, h, State.sentB, levels, driveFrom, PrimB.drives, lineTime]
  | driveLow t | release t | wait t =>
    have h : s.owline = rest := howl
    simp [EventB.prim, primB, ← h, State.sentB, levels, driveFrom, PrimB.drives, lineTime]

section
variable {i : Instr} {next : ExecB → ActB} {s : State} {e : ExecB} {ops : List PrimB} {rest : List Bool}

/-- One step, in a line that is being sent, performs the primitive at its position and leaves that event. -/
theorem IsStepB.exec_event (hi : IsStepB i next) (hs : s.b.seq = .exec e) (hn : (next e).ops = some ops) (ev : EventB)
    (hop : ops[e.phase.sub]? = some ev.prim) (howl : s.owline = levels [ev] ++ rest) :
    exec i s = .next (s.sentB
      { e with phase := e.phase.advance ops.length, staged := e.staged ++ levels [ev] } [ev] rest) := by
  have hslot : (next e).perform e = slotStep ops e := by
    cases hact : next e with
    | slot ops' | bus v =>
      rw [hact] at hn
      cases hn
      rfl
    | done c | raise code =>
      rw [hact] at hn
      cases hn
  have hprim : slotStep ops e s = primB ev.prim e (e.phase.advance ops.length) s := by
    simp only [slotStep, hop]
  rw [hi s, stepB_exec next hs, hslot, hprim, primB_eq_sentB ev e _ howl]

end

/-- What is still to come of a slot sequence, as events, begins with the primitive at the position. -/
theorem event_of_drop {ops : List PrimB} {n : Nat} {ev : EventB} {tr : List EventB}
    (h : ops.drop n = (ev :: tr).map EventB.prim) : ops[n]? = some ev.prim ∧ ops.length = n + tr.length + 1 := by
  refine ⟨by rw [← List.head?_drop, h, List.map_cons, List.head?_cons], ?_⟩
  have hlen := congrArg List.length h
  rw [List.length_drop, List.length_map, List.length_cons] at hlen
  omega

/-- The command goes on with the slot sequence `ops` from every position of its line, whatever it samples on the way. -/
def SendsLine (next : ExecB → ActB) (e : ExecB) (ops : List PrimB) : Prop :=
  ∀ sub staged, sub < ops.length → e.staged <+: staged →
    (next { e with phase := ⟨e.phase.line, sub⟩, staged := staged }).ops = some ops

section
variable {i : Instr} {next : ExecB → ActB} {s : State} {e : ExecB} {ops : List PrimB} {rest : List Bool}

theorem SendsLine.ops_eq (h : SendsLine next e ops) (hsub : e.phase.sub < ops.length) : (next e).ops = some ops :=
  h e.phase.sub e.staged hsub ⟨[], List.append_nil _⟩

theorem SendsLine.goesOn (h : SendsLine next e ops) (sub : Nat) (sampled : List Bool) :
    SendsLine next { e with phase := ⟨e.phase.line, sub⟩, staged := e.staged ++ sampled } ops :=
  fun sub' staged hlt hst => h sub' staged hlt (List.IsPrefix.trans ⟨sampled, rfl⟩ hst)

/-- The rest of a slot sequence, from any primitive of it: the trace that it leaves has one event for each. -/
theorem IsStepB.execTimes_rest_of_line (hi : IsStepB i next) (ev : EventB) (tr : List EventB) (hs : s.b.seq = .exec e)
    (hsends : SendsLine next e ops) (hops : ops.drop e.phase.sub = (ev :: tr).map EventB.prim)
    (howl : s.owline = levels (ev :: tr) ++ rest) :
    execTimes (tr.length + 1) i s = .next (s.sentB
      { e with phase := ⟨e.phase.line + 1, 0⟩, staged := e.staged ++ levels (ev :: tr) } (ev :: tr) rest) := by
  induction tr generalizing ev s e with
  | nil =>
    obtain ⟨hop, hlen⟩ := event_of_drop hops
    rw [List.length_nil] at hlen
    have hstep := hi.exec_event hs (hsends.ops_eq (by omega)) ev hop howl
    rw [PhaseB.advance, if_neg (by omega)] at hstep
    exact execTimes_succ 0 i s _ hstep
  | cons ev' tr ih =>
    obtain ⟨hop, hlen⟩ := event_of_drop hops
    rw [List.length_cons] at hlen
    have hlevels : levels (ev :: ev' :: tr) = levels [ev] ++ levels (ev' :: tr) := levels_append [ev] (ev' :: tr)
    rw [hlevels, List.append_assoc] at howl
    have hstep := hi.exec_event hs (hsends.ops_eq (by omega)) ev hop howl
    rw [PhaseB.advance, if_pos (by omega)] at hstep
    have hrest : ops.drop (e.phase.sub + 1) = (ev' :: tr).map EventB.prim := by
      rw [← List.drop_drop, hops]
      rfl
    have hrun := ih (s := s.sentB _ [ev] (levels (ev' :: tr) ++ rest)) ev' rfl
      (hsends.goesOn (e.phase.sub + 1) (levels [ev])) hrest rfl
    refine (execTimes_succ _ i s _ hstep).trans (hrun.trans ?_)
    rw [sentB_sentB, hlevels, ← List.append_assoc]
    rfl

/-- A whole line: from the beginning of its slot sequence to the beginning of the next line. -/
theorem IsStepB.execTimes_line (hi : IsStepB i next) {tr : List EventB} {n : Nat} (hn : tr.length = n + 1)
    (hs : s.b.seq = .exec e) (hsub : e.phase.sub = 0) (hsends : SendsLine next e (tr.map EventB.prim))
    (howl : s.owline = levels tr ++ rest) :
    execTimes (n + 1) i s = .next (s.sentB
      { e with phase := ⟨e.phase.line + 1, 0⟩, staged := e.staged ++ levels tr } tr rest) := by
  cases tr with
  | nil => cases hn
  | cons ev tr =>
    cases hn
    exact hi.execTimes_rest_of_line ev tr hs hsends (by rw [hsub]; rfl) howl

end

/-! ### The trace of a written byte (R404) -/

theorem driveFrom_append (d : LineDrive) (tr tr' : List EventB) :
    driveFrom d (tr ++ tr') = driveFrom (driveFrom d tr) tr' := List.foldl_append

theorem driveFrom_writeBitTrace (d : LineDrive) (bit : Bool) : driveFrom d (writeBitTrace bit) = .released := by
  cases bit <;> rfl

theorem lineTime_writeBitTrace (bit : Bool) : lineTime (writeBitTrace bit) = 80 := by cases bit <;> rfl

theorem levels_writeBitTrace (bit : Bool) : levels (writeBitTrace bit) = [] := by cases bit <;> rfl

theorem length_writeBitTrace (bit : Bool) : (writeBitTrace bit).length = 2 := by cases bit <;> rfl

theorem map_prim_writeBitTrace (bit : Bool) : (writeBitTrace bit).map EventB.prim = writeBitOps bit := by
  cases bit <;> rfl

theorem writeByteTrace_eq_append (v : Byte) :
    writeByteTrace v = writeBitTrace (v.getLsbD 0) ++ writeBitTrace (v.getLsbD 1) ++ writeBitTrace (v.getLsbD 2) ++
      writeBitTrace (v.getLsbD 3) ++ writeBitTrace (v.getLsbD 4) ++ writeBitTrace (v.getLsbD 5) ++
      writeBitTrace (v.getLsbD 6) ++ writeBitTrace (v.getLsbD 7) := by
  simp [writeByteTrace, bitsOfByte, List.range_succ]

theorem driveFrom_writeByteTrace (d : LineDrive) (v : Byte) : driveFrom d (writeByteTrace v) = .released := by
  simp only [writeByteTrace_eq_append, driveFrom_append, driveFrom_writeBitTrace]

theorem lineTime_writeByteTrace (v : Byte) : lineTime (writeByteTrace v) = 640 := by
  simp only [writeByteTrace_eq_append, lineTime_append, lineTime_writeBitTrace]

theorem levels_writeByteTrace (v : Byte) : levels (writeByteTrace v) = [] := by
  simp only [writeByteTrace_eq_append, levels_append, levels_writeBitTrace, List.append_nil]

theorem length_writeByteTrace (v : Byte) : (writeByteTrace v).length = 16 := by
  simp only [writeByteTrace_eq_append, List.length_append, length_writeBitTrace]

theorem map_prim_writeByteTrace (v : Byte) : (writeByteTrace v).map EventB.prim = writeByteOps v := by
  simp only [writeByteTrace_eq_append, List.map_append, map_prim_writeBitTrace, writeByteOps]

/-- A line that writes a byte: sixteen primitives, and no sample. -/
theorem IsStepB.execTimes_byte {i : Instr} {next : ExecB → ActB} (hi : IsStepB i next) {s : State} {e : ExecB}
    {v : Byte} (hs : s.b.seq = .exec e) (hsub : e.phase.sub = 0) (hsends : SendsLine next e (writeByteOps v)) :
    execTimes 16 i s =
      .next (s.sentB { e with phase := ⟨e.phase.line + 1, 0⟩ } (writeByteTrace v) s.owline) := by
  have hrun := hi.execTimes_line (n := 15) (tr := writeByteTrace v) (rest := s.owline) (length_writeByteTrace v) hs hsub
    (by rwa [map_prim_writeByteTrace]) (by rw [levels_writeByteTrace]; rfl)
  rwa [levels_writeByteTrace, List.append_nil] at hrun

/-- Settles O49: the instruction of each byte goes on sending it, from whatever line it stands at. -/
theorem busCommandsSendTheirByte : Obligations.BusCommandsSendTheirByte := by
  intro i v s e hmem hs hsub
  have hi : IsStepB i fun _ => .bus v := by
    simp only [List.mem_cons, List.not_mem_nil, or_false, Prod.mk.injEq] at hmem
    rcases hmem with ⟨rfl, rfl⟩ | ⟨rfl, rfl⟩ | ⟨rfl, rfl⟩ | ⟨rfl, rfl⟩ <;> exact fun _ => rfl
  have hrun := hi.execTimes_byte hs hsub fun _ _ _ _ => rfl
  rw [State.sentB, driveFrom_writeByteTrace, lineTime_writeByteTrace] at hrun
  exact exists_last_step_of_execTimes hrun

/-! ### `OWINIT` (R450) -/

/-- Sending a byte, after a trace. -/
theorem IsStepB.execTimes_sentB_byte {i : Instr} {next : ExecB → ActB} (hi : IsStepB i next) {s : State} {e : ExecB}
    {v : Byte} {tr : List EventB} {rest : List Bool} (hsub : e.phase.sub = 0)
    (hsends : SendsLine next e (writeByteOps v)) (n : Nat) :
    execTimes (16 + n) i (s.sentB e tr rest) =
      execTimes n i (s.sentB { e with phase := ⟨e.phase.line + 1, 0⟩ } (tr ++ writeByteTrace v) rest) := by
  refine execTimes_add 16 n i _ _ ((hi.execTimes_byte rfl hsub hsends).trans ?_)
  rw [sentB_sentB]
  rfl

/-- A command that commits nothing ends after the trace of its slots, which left the line released. -/
theorem completeB_sentB (s : State) (e : ExecB) {tr : List EventB} (rest : List Bool)
    (hdrive : driveFrom s.b.drive tr = .released) :
    completeB {} (s.sentB e tr rest) =
      s.endB { s.b.regs with done := true, err := .ok } s.b.sp (s.b.time + lineTime tr) (s.b.trace ++ tr) rest := by
  simp [completeB, State.sentB, State.endB, Quad.commit, hdrive]

/-- Settles O40: the reset slot, then a byte from each of the five lines after it. -/
theorem owinitCompletes : Obligations.OwinitCompletes := by
  intro s w args rest hs howl
  have hi : IsStepB .bOwinit owinitNext := fun _ => rfl
  have hreset := hi.execTimes_line (n := 3) (tr := resetTrace false) rfl hs rfl (fun _ _ _ _ => rfl) howl
  have hline : ∀ k v, (owinitNext ⟨w, args, ⟨k + 1, 0⟩, [false]⟩).ops = some (writeByteOps v) →
      SendsLine owinitNext ⟨w, args, ⟨k + 1, 0⟩, [false]⟩ (writeByteOps v) := by
    rintro k v h sub _ _ ⟨staged, rfl⟩
    exact h
  refine ⟨_, (execTimes_add 4 80 _ _ _ hreset).trans
    ((hi.execTimes_sentB_byte rfl (hline 0 0xCC rfl) 64).trans
    ((hi.execTimes_sentB_byte rfl (hline 1 0x4E rfl) 48).trans
    ((hi.execTimes_sentB_byte rfl (hline 2 (argByte args 0) rfl) 32).trans
    ((hi.execTimes_sentB_byte rfl (hline 3 (argByte args 1) rfl) 16).trans
    (hi.execTimes_sentB_byte rfl (hline 4 (argByte args 2) rfl) 0))))), ?_⟩
  refine (exec_of_nextB rfl rfl rfl).trans (congrArg _ ?_)
  refine (completeB_sentB s _ rest ?drive).trans ?time
  case drive => rw [driveFrom_append, driveFrom_writeByteTrace]
  case time =>
    simp only [lineTime_append, lineTime_writeByteTrace, List.append_assoc]
    rfl

end Sys2Proof.Machine
end

section
/-! O19, O20, O22, O23, O25. The other commands of the combined sensor: `exec_write` beside `exec_read`, what the results
and the written bytes are, and the commands that the state of `CAL_VALID` ends at once. -/

namespace Sys2Proof.Machine

/-! ### A write that is acknowledged -/

/-- `s` after primitive `k` of channel A's command, a write of `bytes` that was acknowledged. -/
def State.hasWritten (s : State) (e : ExecA) (k : Nat) (addr : Byte) (bytes : List Byte) (rest : List I2cAnswer) :
    State :=
  { s with
    i2c := rest
    a := { s.a with
      trace := s.a.trace ++ [.memWrite e.dev addr bytes (.ok [])]
      seq := .exec { e with phase := .prim (k + 1) } } }

section
variable {i : Instr} {next : ChanA → ExecA → Nat → ActA} {s : State} {e : ExecA} {k : Nat}

theorem IsStepA.exec_write (hi : IsStepA i next) (hs : s.a.seq = .exec e) (hp : e.phase = .prim k) {addr : Byte}
    {bytes : List Byte} {rest : List I2cAnswer} (hn : next s.a e k = .write addr bytes) (hi2c : s.i2c = .ok [] :: rest) :
    exec i s = .next (s.hasWritten e k addr bytes rest) := by
  rw [hi s, stepA_prim (next s.a) hs hp, hn]
  simp [ActA.perform, memWrite, hi2c, I2cAnswer.sized, ExecA.answered, State.hasWritten]

theorem IsStepA.execTimes_write (hi : IsStepA i next) (m : Nat) (hs : s.a.seq = .exec e) (hp : e.phase = .prim k)
    {addr : Byte} {bytes : List Byte} {rest : List I2cAnswer} (hn : next s.a e k = .write addr bytes)
    (hi2c : s.i2c = .ok [] :: rest) :
    execTimes (m + 1) i s = execTimes m i (s.hasWritten e k addr bytes rest) :=
  execTimes_succ m i s _ (hi.exec_write hs hp hn hi2c)

end

/-! ### `ID` and `STAT`: the classes of the byte read -/

/-- The classes of R201, the chip ids written out. -/
theorem idClass_eq (b : Byte) : idClass b = if b = 0x60 then 0 else if b = 0x58 ∨ b = 0x56 then 1 else 2 := by
  simp [idClass, Config.chipIdOk, Config.chipIdWrong]

/-- R240's mask keeps bits 3 and 0. -/
theorem and_statMask (b : Byte) :
    b &&& 0x09 = (if b.getLsbD 3 then 0x08 else 0) ||| (if b.getLsbD 0 then 0x01 else 0) :=
  calc b &&& 0x09 = b &&& (BitVec.twoPow 8 3 ||| BitVec.twoPow 8 0) := rfl
    _ = (b &&& BitVec.twoPow 8 3) ||| (b &&& BitVec.twoPow 8 0) := BitVec.and_or_distrib_left
    _ = _ := congrArg₂ (· ||| ·) (BitVec.and_twoPow b 3) (BitVec.and_twoPow b 0)

/-- Bit 3 (measuring) counts 1 in the class and bit 0 (copying) 2, so a masked byte is never Corrupt (R241). -/
theorem statClass_masked (b : Byte) :
    statClass (b &&& 0x09) = (if b.getLsbD 3 then 1 else 0) + (if b.getLsbD 0 then 2 else 0) := by
  rw [and_statMask]
  cases b.getLsbD 3 <;> cases b.getLsbD 0 <;> decide

/-- Settles O19: one read, then the completion with the class of the byte. -/
theorem idCompletes : Obligations.IdCompletes := by
  intro s w args dev b rest hs hi2c
  have hi : IsStepA .aId fun _ => idNext := fun _ => rfl
  refine ⟨_, hi.exec_read hs rfl rfl rfl hi2c, (hi.exec_done rfl rfl rfl).trans ?_⟩
  rw [← idClass_eq]
  rfl

/-- Settles O20: one write, then the completion that clears `CAL_VALID`. -/
theorem srstCompletes : Obligations.SrstCompletes := by
  intro s w args dev rest hs hi2c
  have hi : IsStepA .aSrst fun _ => srstNext := fun _ => rfl
  exact ⟨_, hi.exec_write hs rfl rfl hi2c, (hi.exec_done rfl rfl rfl).trans rfl⟩

/-- Settles O25: one read, then the completion with the class of the masked byte. -/
theorem statCompletes : Obligations.StatCompletes := by
  intro s w args dev b rest hs hi2c
  have hi : IsStepA .aStat fun _ => statNext := fun _ => rfl
  refine ⟨_, hi.exec_read hs rfl rfl rfl hi2c, (hi.exec_done rfl rfl rfl).trans ?_⟩
  rw [← statClass_masked]
  rfl

/-! ### `LDCAL` and the compensations: the gate of `CAL_VALID` -/

/-- The commands that need a calibration table (R37). -/
def compensations : List Instr := [.aCompt, .aCompp, .aCompp64, .aComph, .aComphf]

theorem place_of_mem_compensations : ∀ i ∈ compensations, i.place = .channel .a := by decide

/-- Without a table a compensation raises, whatever its operands (R37). -/
theorem nextA_compensation_of_not_valid {i : Instr} {c : ChanA} (hi : i ∈ compensations) (hvalid : c.regs.valid = false)
    (e : ExecA) (k : Nat) : nextA i c e k = some (.raise .invalidCalibration) := by
  have hgate (act : ActA) : some (if c.regs.valid then act else .raise .invalidCalibration) =
      some (.raise .invalidCalibration) := by rw [hvalid]; rfl
  simp only [compensations, List.mem_cons, List.not_mem_nil, or_false] at hi
  rcases hi with rfl | rfl | rfl | rfl | rfl <;> exact hgate _

/-- Settles O22: the first thing each command looks at is `CAL_VALID`, and it raises. -/
theorem calibrationGate : Obligations.CalibrationGate := by
  refine ⟨fun s e hs hp hvalid => ?_, fun s e i hs hp hvalid hmem => ?_⟩
  · have hi : IsStepA .aLdcal fun ch => ldcalNext ch.regs.valid := fun _ => rfl
    exact hi.exec_raise hs hp (if_pos hvalid)
  · obtain ⟨next, hi, hnext⟩ := exec_nextA (place_of_mem_compensations i hmem)
    have hraise := nextA_compensation_of_not_valid hmem hvalid e 0
    exact hi.exec_raise hs hp (Option.some.inj ((hnext s.a e 0).symm.trans hraise))

/-! ### `CFG`: the bytes it writes, field by field -/

/-- R162's bounds on the fields make the config valid. -/
theorem SensorConfig.valid_of_bounds {c : SensorConfig} (ht : c.osrsT.toNat ≤ 5) (hp : c.osrsP.toNat ≤ 5)
    (hh : c.osrsH.toNat ≤ 5) (hf : c.filter.toNat ≤ 4) (hm : c.mode ≠ 2) : c.valid = true := by
  rw [← Bool.not_eq_false, SensorConfig.valid_eq_false_iff]
  simpa [ht, hp, hh, hf] using hm

/-- Three fields shifted to their places fill a byte. -/
theorem shifted_fields_eq_append (x y : BitVec 3) (z : BitVec 2) :
    x.setWidth 8 <<< 5 ||| y.setWidth 8 <<< 2 ||| z.setWidth 8 = x ++ (y ++ z) := by
  have hwhole : (x ++ (y ++ z) : Byte).setWidth 8 = x ++ (y ++ z) := BitVec.setWidth_eq _
  rw [← hwhole, BitVec.setWidth_append_eq_shiftLeft_setWidth_or, BitVec.setWidth_append_eq_shiftLeft_setWidth_or,
    BitVec.or_assoc]

/-- ctrl_hum: bits 7:3 as read, then `osrs_h` (R103). -/
theorem ctrlHum_eq_append (old : Byte) (c : SensorConfig) : ctrlHum old c = old.extractLsb' 3 5 ++ c.osrsH := by
  have hold : old.extractLsb' 3 5 ++ old.extractLsb' 0 3 = old :=
    BitVec.extractLsb'_append_extractLsb' (w := 5) (len := 3)
  have hfield : c.osrsH.setWidth 8 = 0#5 ++ c.osrsH := BitVec.setWidth_eq_append (by decide)
  calc ctrlHum old c
      = (old.extractLsb' 3 5 ++ old.extractLsb' 0 3 &&& BitVec.allOnes 5 ++ 0#3) ||| 0#5 ++ c.osrsH := by
        rw [hold, ← hfield]
        rfl
    _ = old.extractLsb' 3 5 ++ c.osrsH := by
      simp only [BitVec.and_append, BitVec.or_append, BitVec.and_allOnes, BitVec.and_zero, BitVec.or_zero, BitVec.zero_or]

/-- ctrl_meas: `osrs_t`, `osrs_p` and the mode (R105). -/
theorem ctrlMeas_eq_append (old : Byte) (c : SensorConfig) : ctrlMeas old c = c.osrsT ++ (c.osrsP ++ c.mode) :=
  (ctrlMeas_eq old c).trans (shifted_fields_eq_append _ _ _)

/-- config: `t_sb`, `filter`, then bits 1:0 as read (R106). -/
theorem ctrlConfig_eq_append (old : Byte) (c : SensorConfig) :
    ctrlConfig old c = c.tSb ++ (c.filter ++ old.extractLsb' 0 2) := by
  have hold : old.extractLsb' 2 6 ++ old.extractLsb' 0 2 = old :=
    BitVec.extractLsb'_append_extractLsb' (w := 6) (len := 2)
  have hkept : old &&& 0x03 = (old.extractLsb' 0 2).setWidth 8 :=
    calc old &&& 0x03 = old.extractLsb' 2 6 ++ old.extractLsb' 0 2 &&& 0#6 ++ BitVec.allOnes 2 := by
          rw [hold]
          rfl
      _ = 0#6 ++ old.extractLsb' 0 2 := by simp only [BitVec.and_append, BitVec.and_allOnes, BitVec.and_zero]
      _ = (old.extractLsb' 0 2).setWidth 8 := (BitVec.setWidth_eq_append (by decide)).symm
  calc ctrlConfig old c
      = (old.extractLsb' 0 2).setWidth 8 ||| c.tSb.setWidth 8 <<< 5 ||| c.filter.setWidth 8 <<< 2 := by
        rw [← hkept]
        rfl
    _ = c.tSb ++ (c.filter ++ old.extractLsb' 0 2) := by
      rw [BitVec.or_assoc, BitVec.or_comm, shifted_fields_eq_append]

/-- The fields of a byte put together from three. -/
theorem fields_of_append (x y : BitVec 3) (z : BitVec 2) :
    (x ++ (y ++ z) : Byte).extractLsb' 5 3 = x ∧ (x ++ (y ++ z) : Byte).extractLsb' 2 3 = y ∧
    (x ++ (y ++ z) : Byte).extractLsb' 0 2 = z :=
  ⟨BitVec.extractLsb'_append_eq_left,
    (BitVec.extractLsb'_append_eq_of_add_le (by decide)).trans BitVec.extractLsb'_append_eq_left,
    (BitVec.extractLsb'_append_eq_of_add_le (by decide)).trans BitVec.extractLsb'_append_eq_right⟩

/-- Settles O23: a valid config passes the check, then each register is read and written back in turn. -/
theorem cfgCompletes : Obligations.CfgCompletes := by
  intro s w args dev r2 r4 r5 rest hs ht hp hh hf hm hi2c
  have hi : IsStepA .aCfg fun _ => cfgNext := fun _ => rfl
  have hfirst : cfgNext ⟨w, args, dev, .prim 0, []⟩ 0 = .read 0xF2 1 :=
    if_pos (SensorConfig.valid_of_bounds (c := configArg args) ht hp hh hf hm)
  have hsix := (hi.execTimes_read 5 hs rfl hfirst rfl hi2c).trans
    ((hi.execTimes_write 4 rfl rfl rfl rfl).trans ((hi.execTimes_read 3 rfl rfl rfl rfl rfl).trans
    ((hi.execTimes_write 2 rfl rfl rfl rfl).trans ((hi.execTimes_read 1 rfl rfl rfl rfl rfl).trans
    (hi.execTimes_write 0 rfl rfl rfl rfl)))))
  obtain ⟨hosrsT, hosrsP, hmode⟩ := fields_of_append (configArg args).osrsT (configArg args).osrsP (configArg args).mode
  obtain ⟨htSb, hfilter, hkept⟩ := fields_of_append (configArg args).tSb (configArg args).filter (r5.extractLsb' 0 2)
  refine ⟨_, ctrlHum r2 (configArg args), ctrlMeas r4 (configArg args), ctrlConfig r5 (configArg args), hsix,
    (hi.exec_done rfl rfl rfl).trans ?commit, ?_⟩
  case commit =>
    simp [completeA, State.hasRead, State.hasWritten, State.endA, Quad.commit, stagedByte]
  rw [ctrlHum_eq_append, ctrlMeas_eq_append, ctrlConfig_eq_append]
  exact ⟨BitVec.extractLsb'_append_eq_left, BitVec.extractLsb'_append_eq_right, hosrsT, hosrsP, hmode, hkept, hfilter,
    htSb⟩

end Sys2Proof.Machine
end

section
/-! O29 to O33. The fixed-point compensations over the integers: each operation on registers is its integer operation
brought back to the register's width (00_scope.md R8, R9), and each helper of the model is the same lines of R301, R311,
R321 or R331. -/

namespace Sys2Proof.Machine

/-! ### Register arithmetic as integer arithmetic (R8, R9) -/

theorem toInt_sshiftRight_eq_shr {w : Nat} (x : BitVec w) (n : Nat) :
    (x.sshiftRight n).toInt = Reference.shr x.toInt n := by
  rw [BitVec.toInt_sshiftRight, Int.shiftRight_eq_div_pow, Reference.shr]
  norm_cast

theorem toInt_shiftLeft_eq_bmod {w : Nat} (x : BitVec w) (n : Nat) :
    (x <<< n).toInt = (x.toInt * 2 ^ n).bmod (2 ^ w) := by
  have hcast : ((x.toNat <<< n : Nat) : Int) = (x.toNat : Int) * 2 ^ n := by
    rw [Nat.shiftLeft_eq]
    norm_cast
  rw [BitVec.toInt_shiftLeft, hcast, BitVec.toInt_eq_toNat_bmod, Int.bmod_mul_bmod]

/-- The unsigned reading of a register is `u32` of its signed one. -/
theorem toNat_eq_u32 (x : Word) : (x.toNat : Int) = Reference.u32 x.toInt := by
  have hlt : (x.toNat : Int) < 2 ^ 32 := by exact_mod_cast x.isLt
  rw [BitVec.toInt_eq_toNat_bmod, Reference.u32]
  exact ((Int.bmod_emod (m := 2 ^ 32)).trans (Int.emod_eq_of_lt (by omega) hlt)).symm

theorem toNat_add_eq_u32 (x y : Word) : ((x + y).toNat : Int) = Reference.u32 (x.toNat + y.toNat) := by
  rw [BitVec.toNat_add]
  rfl

theorem toNat_sub_eq_u32 (x y : Word) : ((x - y).toNat : Int) = Reference.u32 (x.toNat - y.toNat) := by
  rw [BitVec.toNat_sub, Reference.u32]
  omega

theorem toNat_mul_eq_u32 (x y : Word) : ((x * y).toNat : Int) = Reference.u32 (x.toNat * y.toNat) := by
  rw [BitVec.toNat_mul]
  rfl

theorem toInt_clampSigned (lo hi v : Word) (h : lo.toInt ≤ hi.toInt) :
    (clampSigned lo hi v).toInt = max lo.toInt (min hi.toInt v.toInt) := by
  simp only [clampSigned, BitVec.slt_iff_toInt_lt]
  split_ifs <;> omega

theorem toInt_adc20 (args : Quad) : (adc20 args).toInt = (args.r0.toNat % 2 ^ 20 : Nat) := by
  rw [adc20, toInt_zext32 _ (by decide), BitVec.extractLsb'_toNat]
  rfl

theorem toInt_adc16 (args : Quad) : (adc16 args).toInt = (args.r0.toNat % 2 ^ 16 : Nat) := by
  rw [adc16, toInt_zext32 _ (by decide), BitVec.extractLsb'_toNat]
  rfl

theorem toInt_coef_temperature (c : Cal) :
    (c.coef .t1).toInt = c.t1.toNat ∧ (c.coef .t2).toInt = c.t2.toInt ∧ (c.coef .t3).toInt = c.t3.toInt :=
  ⟨toInt_zext32 _ (by decide), toInt_sext32 _ (by decide), toInt_sext32 _ (by decide)⟩

theorem toInt_coef_pressure (c : Cal) :
    (c.coef .p1).toInt = c.pressure 1 ∧ (c.coef .p2).toInt = c.pressure 2 ∧ (c.coef .p3).toInt = c.pressure 3 ∧
    (c.coef .p4).toInt = c.pressure 4 ∧ (c.coef .p5).toInt = c.pressure 5 ∧ (c.coef .p6).toInt = c.pressure 6 ∧
    (c.coef .p7).toInt = c.pressure 7 ∧ (c.coef .p8).toInt = c.pressure 8 ∧ (c.coef .p9).toInt = c.pressure 9 :=
  have hsigned (v : BitVec 16) : (sext32 v).toInt = v.toInt := toInt_sext32 v (by decide)
  ⟨toInt_zext32 _ (by decide), hsigned _, hsigned _, hsigned _, hsigned _, hsigned _, hsigned _, hsigned _, hsigned _⟩

theorem toInt_coef_humidity (c : Cal) :
    (c.coef .h1).toInt = c.humidity 1 ∧ (c.coef .h2).toInt = c.humidity 2 ∧ (c.coef .h3).toInt = c.humidity 3 ∧
    (c.coef .h4).toInt = c.humidity 4 ∧ (c.coef .h5).toInt = c.humidity 5 ∧ (c.coef .h6).toInt = c.humidity 6 :=
  ⟨toInt_zext32 _ (by decide), toInt_sext32 _ (by decide), toInt_zext32 _ (by decide), toInt_sext32 _ (by decide),
    toInt_sext32 _ (by decide), toInt_sext32 _ (by decide)⟩

theorem toInt_coef64 (c : Cal) (k : Coef) : (c.coef64 k).toInt = (c.coef k).toInt :=
  BitVec.toInt_signExtend_of_le (by decide)

/-! ### What a compensation leaves -/

/-- A command that only commits results ends with them, and with nothing else changed (R606). -/
theorem IsStepA.exec_results {i : Instr} {next : ChanA → ExecA → Nat → ActA} (hi : IsStepA i next) {s : State} {e : ExecA}
    {k : Nat} (hs : s.a.seq = .exec e) (hp : e.phase = .prim k) {r : Results} (hn : next s.a e k = .done { res := r }) :
    exec i s = .next (s.endA { s.a.regs with done := true, err := .ok, res := s.a.regs.res.commit r }
      s.a.cal s.a.trace s.i2c) :=
  hi.exec_done hs hp hn

/-! ### `COMPT` (R301) -/

theorem toInt_compT_tFine (adcT : Word) (cal : Cal) :
    (compT adcT cal).2.toInt = Reference.tFine adcT.toInt cal.t1.toNat cal.t2.toInt cal.t3.toInt := by
  simp only [compT, Reference.tFine, Reference.s32, BitVec.toInt_add, BitVec.toInt_sub, BitVec.toInt_mul,
    toInt_shiftLeft_eq_bmod, toInt_sshiftRight_eq_shr, toInt_coef_temperature, pow_one]

theorem compT_temperature_eq (adcT : Word) (cal : Cal) :
    (compT adcT cal).1 = clampSigned (-4000) 8500 (((compT adcT cal).2 * 5 + 128).sshiftRight 8) := by
  simp only [compT]

theorem toInt_compT_temperature (adcT : Word) (cal : Cal) :
    (compT adcT cal).1.toInt = Reference.temperature (compT adcT cal).2.toInt := by
  rw [compT_temperature_eq, toInt_clampSigned _ _ _ (by decide), toInt_sshiftRight_eq_shr, BitVec.toInt_add,
    BitVec.toInt_mul]
  rfl

theorem temperature_in_range (tFine : Int) :
    -4000 ≤ Reference.temperature tFine ∧ Reference.temperature tFine ≤ 8500 :=
  ⟨le_max_left _ _, max_le (by decide) (min_le_left _ _)⟩

/-- Settles O29: both results are the lines of R301, and the clamp bounds the temperature (R302). -/
theorem comptCompletes : Obligations.ComptCompletes := by
  intro s e k hs hp hvalid
  have hi : IsStepA .aCompt comptNext := fun _ => rfl
  have hT := toInt_compT_temperature (adc20 e.args) s.a.cal
  refine ⟨_, _, hi.exec_results hs hp (if_pos hvalid), ?tFine, hT, ?range⟩
  case tFine => exact toInt_adc20 e.args ▸ toInt_compT_tFine (adc20 e.args) s.a.cal
  case range => exact hT ▸ temperature_in_range _

/-! ### `COMPP` (R311, R312) -/

section
variable (tFine : Int) (P : Nat → Int)

/-- The second assignment of `v1` in R311. -/
def denominator32 : Int :=
  let v1 := Reference.s32 (Reference.shr tFine 1 - 64000)
  let q := Reference.shr v1 2
  let sq := Reference.s32 (q * q)
  let w1 := Reference.shr (Reference.s32 (P 3 * Reference.shr sq 13)) 3
  let w2 := Reference.shr (Reference.s32 (P 2 * v1)) 1
  let v1 := Reference.shr (Reference.s32 (w1 + w2)) 18
  Reference.shr (Reference.s32 (Reference.s32 (32768 + v1) * P 1)) 15

/-- The last assignment of `v2` in R311. -/
def offset32 : Int :=
  let v1 := Reference.s32 (Reference.shr tFine 1 - 64000)
  let q := Reference.shr v1 2
  let sq := Reference.s32 (q * q)
  let v2 := Reference.s32 (Reference.shr sq 11 * P 6)
  let v2 := Reference.s32 (v2 + Reference.s32 (Reference.s32 (v1 * P 5) * 2))
  Reference.s32 (Reference.shr v2 2 + Reference.s32 (P 4 * 2 ^ 16))

/-- The first assignment of `p` in R311. -/
def numerator32 (adcP v2 : Int) : Int :=
  Reference.u32 (Reference.u32 (Reference.u32 (1048576 - adcP) - Reference.u32 (Reference.shr v2 12)) * 3125)

/-- The division branch of R311. -/
def quotient32 (p v1 : Int) : Int :=
  if p < 0x80000000 then Reference.u32 (p * 2) / Reference.u32 v1 else Reference.u32 (p / Reference.u32 v1 * 2)

/-- The last four lines of R311. -/
def corrected32 (p : Int) : Int :=
  let x1 := Reference.shr (Reference.s32 (P 9 * Reference.s32 (Reference.u32 (p / 8 * (p / 8)) / 8192))) 12
  let x2 := Reference.shr (Reference.s32 (Reference.s32 (p / 4) * P 8)) 13
  Reference.u32 (Reference.s32 p + Reference.shr (Reference.s32 (Reference.s32 (x1 + x2) + P 7)) 4)

theorem pressure32_eq (adcP : Int) :
    Reference.pressure32 adcP tFine P =
      if denominator32 tFine P = 0 then 0
      else corrected32 P (quotient32 (numerator32 adcP (offset32 tFine P)) (denominator32 tFine P)) := rfl

end

theorem toInt_compP32Denominator (tFine : Word) (cal : Cal) :
    (compP32Denominator tFine cal).toInt = denominator32 tFine.toInt cal.pressure := by
  simp only [compP32Denominator, denominator32, Reference.s32, BitVec.toInt_add, BitVec.toInt_sub, BitVec.toInt_mul,
    toInt_sshiftRight_eq_shr, toInt_coef_pressure]
  rfl

theorem toInt_compP32Offset (tFine : Word) (cal : Cal) :
    (compP32Offset tFine cal).toInt = offset32 tFine.toInt cal.pressure := by
  simp only [compP32Offset, offset32, Reference.s32, BitVec.toInt_add, BitVec.toInt_sub, BitVec.toInt_mul,
    toInt_shiftLeft_eq_bmod, toInt_sshiftRight_eq_shr, toInt_coef_pressure, pow_one]
  rfl

theorem toNat_numerator (adcP v2 : Word) :
    (((1048576 - adcP) - v2.sshiftRight 12) * 3125 : Word).toNat = numerator32 adcP.toNat v2.toInt := by
  rw [toNat_mul_eq_u32, toNat_sub_eq_u32, toNat_sub_eq_u32, toNat_eq_u32 (v2.sshiftRight 12), toInt_sshiftRight_eq_shr]
  rfl

theorem toNat_compP32Divide (p v1 : Word) :
    ((compP32Divide p v1).toNat : Int) = quotient32 p.toNat v1.toInt := by
  have hbranch : p.ult 0x80000000 = true ↔ (p.toNat : Int) < 0x80000000 := by
    rw [BitVec.ult_iff_lt, BitVec.lt_def]
    norm_cast
  have hdouble : ((p <<< 1).toNat : Int) = Reference.u32 (p.toNat * 2) := by
    rw [BitVec.toNat_shiftLeft, Nat.shiftLeft_eq]
    rfl
  unfold compP32Divide quotient32
  by_cases h : (p.toNat : Int) < 0x80000000
  · rw [if_pos h, if_pos (hbranch.mpr h), BitVec.toNat_udiv, Int.natCast_ediv, hdouble, toNat_eq_u32 v1]
  · rw [if_neg h, if_neg (hbranch.not.mpr h), toNat_mul_eq_u32, BitVec.toNat_udiv, Int.natCast_ediv, toNat_eq_u32 v1]
    rfl

theorem toNat_compP32Correct (p : Word) (cal : Cal) :
    ((compP32Correct p cal).toNat : Int) = corrected32 cal.pressure p.toNat := by
  have hquarter : (p >>> 2).toInt = Reference.s32 (p.toNat / 4) := by
    rw [BitVec.toInt_eq_toNat_bmod, BitVec.toNat_ushiftRight, Nat.shiftRight_eq_div_pow]
    rfl
  have hsquare : (((p >>> 3) * (p >>> 3)) >>> 13).toInt =
      Reference.s32 (Reference.u32 ((p.toNat : Int) / 8 * ((p.toNat : Int) / 8)) / 8192) := by
    rw [BitVec.toInt_eq_toNat_bmod, BitVec.toNat_ushiftRight, Nat.shiftRight_eq_div_pow, Int.natCast_ediv,
      toNat_mul_eq_u32, BitVec.toNat_ushiftRight, Nat.shiftRight_eq_div_pow]
    rfl
  have hwhole : p.toInt = Reference.s32 p.toNat := BitVec.toInt_eq_toNat_bmod p
  have hu32 (x : Int) : Reference.u32 (x.bmod (2 ^ 32)) = Reference.u32 x := Int.bmod_emod
  rw [toNat_eq_u32]
  simp only [compP32Correct, corrected32, BitVec.toInt_add, BitVec.toInt_mul, toInt_sshiftRight_eq_shr,
    toInt_coef_pressure, hquarter, hsquare, hwhole]
  exact hu32 _

theorem toNat_compP32 (adcP tFine : Word) (cal : Cal) :
    ((compP32 adcP tFine cal).toNat : Int) = Reference.pressure32 adcP.toNat tFine.toInt cal.pressure := by
  have hzero : compP32Denominator tFine cal = 0 ↔ denominator32 tFine.toInt cal.pressure = 0 := by
    rw [← toInt_compP32Denominator, ← BitVec.toInt_inj]
    rfl
  rw [pressure32_eq]
  unfold compP32
  by_cases h : denominator32 tFine.toInt cal.pressure = 0
  · rw [if_pos h, if_pos (hzero.mpr h)]
    rfl
  · rw [if_neg h, if_neg (hzero.not.mpr h), toNat_compP32Correct, toNat_compP32Divide, toNat_numerator,
      toInt_compP32Offset, toInt_compP32Denominator]

theorem toNat_adc20 (args : Quad) : (adc20 args).toNat = args.r0.toNat % 2 ^ 20 := by
  rw [adc20, toNat_zext32 _ (by decide), BitVec.extractLsb'_toNat]
  rfl

/-- Settles O30: the result register holds the pressure of R311. -/
theorem comppCompletes : Obligations.ComppCompletes := by
  intro s e k hs hp hvalid
  have hi : IsStepA .aCompp comppNext := fun _ => rfl
  exact ⟨_, hi.exec_results hs hp (if_pos hvalid), toNat_adc20 e.args ▸ toNat_compP32 _ _ _⟩

/-! ### `COMPP64` (R321) -/

section
variable (tFine : Int) (P : Nat → Int)

/-- The last assignment of `v1` in R321. -/
def denominator64 : Int :=
  let v1 := Reference.s64 (tFine - 128000)
  let v1 := Reference.s64 (Reference.shr (Reference.s64 (Reference.s64 (v1 * v1) * P 3)) 8 +
    Reference.s64 (Reference.s64 (v1 * P 2) * 2 ^ 12))
  Reference.shr (Reference.s64 (Reference.s64 (2 ^ 47 + v1) * P 1)) 33

/-- The last assignment of `v2` in R321. -/
def offset64 : Int :=
  let v1 := Reference.s64 (tFine - 128000)
  let v2 := Reference.s64 (Reference.s64 (v1 * v1) * P 6)
  let v2 := Reference.s64 (v2 + Reference.s64 (Reference.s64 (v1 * P 5) * 2 ^ 17))
  Reference.s64 (v2 + Reference.s64 (P 4 * 2 ^ 35))

/-- The lines of R321 after the guard. -/
def corrected64 (adcP v1 v2 : Int) : Int :=
  let p := Reference.s64 (1048576 - adcP)
  let p := Reference.s64
    ((Reference.s64 (Reference.s64 (Reference.s64 (p * 2 ^ 31) - v2) * 3125)).tdiv v1)
  let x1 := Reference.shr (Reference.s64 (Reference.s64 (P 9 * Reference.shr p 13) * Reference.shr p 13)) 25
  let x2 := Reference.shr (Reference.s64 (P 8 * p)) 19
  Reference.s64 (Reference.shr (Reference.s64 (Reference.s64 (p + x1) + x2)) 8 + Reference.s64 (P 7 * 2 ^ 4))

theorem pressure64_eq (adcP : Int) :
    Reference.pressure64 adcP tFine P =
      if denominator64 tFine P = 0 then 0
      else Reference.u32 (corrected64 P adcP (denominator64 tFine P) (offset64 tFine P)) := rfl

end

theorem toInt_compP64Denominator (tFine : Dword) (cal : Cal) :
    (compP64Denominator tFine cal).toInt = denominator64 tFine.toInt cal.pressure := by
  simp only [compP64Denominator, denominator64, Reference.s64, BitVec.toInt_add, BitVec.toInt_sub, BitVec.toInt_mul,
    toInt_shiftLeft_eq_bmod, toInt_sshiftRight_eq_shr, toInt_coef64, toInt_coef_pressure]
  rfl

theorem toInt_compP64Offset (tFine : Dword) (cal : Cal) :
    (compP64Offset tFine cal).toInt = offset64 tFine.toInt cal.pressure := by
  simp only [compP64Offset, offset64, Reference.s64, BitVec.toInt_add, BitVec.toInt_sub, BitVec.toInt_mul,
    toInt_shiftLeft_eq_bmod, toInt_coef64, toInt_coef_pressure]
  rfl

/-- The low word of a double word, unsigned. -/
theorem toNat_setWidth_eq_u32 (x : Dword) : ((x.setWidth 32).toNat : Int) = Reference.u32 x.toInt := by
  have hdvd : (2 ^ 32 : Int) ∣ (2 ^ 64 : Nat) := by decide
  rw [BitVec.toNat_setWidth, BitVec.toInt_eq_toNat_bmod, Reference.u32, ← Int.emod_emod_of_dvd _ hdvd, Int.bmod_emod,
    Int.emod_emod_of_dvd _ hdvd]
  rfl

theorem toNat_compP64 (adcP tFine : Dword) (cal : Cal) :
    ((compP64 adcP tFine cal).toNat : Int) = Reference.pressure64 adcP.toInt tFine.toInt cal.pressure := by
  have hzero : compP64Denominator tFine cal = 0 ↔ denominator64 tFine.toInt cal.pressure = 0 := by
    rw [← toInt_compP64Denominator, ← BitVec.toInt_inj]
    rfl
  rw [pressure64_eq]
  unfold compP64
  by_cases h : denominator64 tFine.toInt cal.pressure = 0
  · rw [if_pos h, if_pos (hzero.mpr h)]
    rfl
  · rw [if_neg h, if_neg (hzero.not.mpr h), toNat_setWidth_eq_u32]
    congr 1
    simp only [corrected64, Reference.s64, BitVec.toInt_add, BitVec.toInt_sub, BitVec.toInt_mul, BitVec.toInt_sdiv,
      toInt_shiftLeft_eq_bmod, toInt_sshiftRight_eq_shr, toInt_coef64, toInt_coef_pressure, toInt_compP64Denominator,
      toInt_compP64Offset]
    rfl

theorem toInt_adc20_widened (args : Quad) :
    ((adc20 args).setWidth 64).toInt = (args.r0.toNat % 2 ^ 20 : Nat) := by
  have hlt : args.r0.toNat % 2 ^ 20 < 2 ^ 20 := Nat.mod_lt _ (by decide)
  have hnat : ((adc20 args).setWidth 64).toNat = args.r0.toNat % 2 ^ 20 :=
    (BitVec.toNat_setWidth_of_le (by decide)).trans (toNat_adc20 args)
  rw [BitVec.toInt_eq_toNat_of_lt (by omega), hnat]

/-- Settles O31: the operands widen to 64 bits without change, and the result register holds the pressure of R321. -/
theorem compp64Completes : Obligations.Compp64Completes := by
  intro s e k hs hp hvalid
  have hi : IsStepA .aCompp64 compp64Next := fun _ => rfl
  have htFine : ((tFineArg e.args).signExtend 64).toInt = e.args.r1.toInt := BitVec.toInt_signExtend_of_le (by decide)
  exact ⟨_, hi.exec_results hs hp (if_pos hvalid), toInt_adc20_widened e.args ▸ htFine ▸ toNat_compP64 _ _ _⟩

/-! ### The zero guard (R312) -/

theorem compP32_of_p1_eq_zero {cal : Cal} (h : cal.p1 = 0) (adcP tFine : Word) : compP32 adcP tFine cal = 0 := by
  have hcoef : cal.coef .p1 = 0 := congrArg zext32 h
  have hden : compP32Denominator tFine cal = 0 := by
    simp [compP32Denominator, hcoef]
  exact if_pos hden

theorem compP64_of_p1_eq_zero {cal : Cal} (h : cal.p1 = 0) (adcP tFine : Dword) : compP64 adcP tFine cal = 0 := by
  have hcoef : cal.coef64 .p1 = 0 := congrArg (fun v => (zext32 v).signExtend 64) h
  have hden : compP64Denominator tFine cal = 0 := by
    simp [compP64Denominator, hcoef]
  exact if_pos hden

/-- Settles O32: `P1` is a factor of the scaled denominator, and its guard stands before the division. -/
theorem pressureZeroGuard : Obligations.PressureZeroGuard := by
  intro s e k i hs hp hvalid hp1 hmem
  simp only [List.mem_cons, List.not_mem_nil, or_false] at hmem
  rcases hmem with rfl | rfl
  · have hi : IsStepA .aCompp comppNext := fun _ => rfl
    rw [hi.exec_results hs hp (if_pos hvalid), compP32_of_p1_eq_zero hp1]
    rfl
  · have hi : IsStepA .aCompp64 compp64Next := fun _ => rfl
    rw [hi.exec_results hs hp (if_pos hvalid), compP64_of_p1_eq_zero hp1]
    rfl

/-! ### `COMPH` (R331) -/

/-- The value that R331 clamps. -/
def product32 (adcH tFine : Int) (H : Nat → Int) : Int :=
  let v := Reference.s32 (tFine - 76800)
  let a1 := Reference.s32 (Reference.s32 (Reference.s32 (adcH * 2 ^ 14) - Reference.s32 (H 4 * 2 ^ 20)) -
    Reference.s32 (H 5 * v))
  let a := Reference.shr (Reference.s32 (a1 + 16384)) 15
  let b1 := Reference.shr (Reference.s32 (v * H 6)) 10
  let b2 := Reference.s32 (Reference.shr (Reference.s32 (v * H 3)) 11 + 32768)
  let b3 := Reference.s32 (Reference.shr (Reference.s32 (b1 * b2)) 10 + 2097152)
  let b := Reference.shr (Reference.s32 (Reference.s32 (b3 * H 2) + 8192)) 14
  let v := Reference.s32 (a * b)
  let c1 := Reference.s32 (Reference.shr v 15 * Reference.shr v 15)
  let c2 := Reference.shr (Reference.s32 (Reference.shr c1 7 * H 1)) 4
  Reference.s32 (v - c2)

theorem humidity32_eq (adcH tFine : Int) (H : Nat → Int) :
    Reference.humidity32 adcH tFine H = Reference.shr (max 0 (min 419430400 (product32 adcH tFine H))) 12 := rfl

theorem toInt_compH32Product (adcH tFine : Word) (cal : Cal) :
    (compH32Product adcH tFine cal).toInt = product32 adcH.toInt tFine.toInt cal.humidity := by
  simp only [compH32Product, product32, Reference.s32, BitVec.toInt_add, BitVec.toInt_sub, BitVec.toInt_mul,
    toInt_shiftLeft_eq_bmod, toInt_sshiftRight_eq_shr, toInt_coef_humidity]
  rfl

theorem toInt_compH32 (adcH tFine : Word) (cal : Cal) :
    (compH32 adcH tFine cal).toInt = Reference.humidity32 adcH.toInt tFine.toInt cal.humidity := by
  rw [compH32, toInt_sshiftRight_eq_shr, toInt_clampSigned _ _ _ (by decide), toInt_compH32Product, humidity32_eq]
  rfl

/-- The clamp bounds the humidity, in both directions (R331). -/
theorem humidity32_in_range (adcH tFine : Int) (H : Nat → Int) :
    0 ≤ Reference.humidity32 adcH tFine H ∧ Reference.humidity32 adcH tFine H ≤ 102400 := by
  rw [humidity32_eq, Reference.shr]
  omega

/-- The humidity is not negative, so the unsigned reading of the register is the humidity too. -/
theorem toNat_compH32 (adcH tFine : Word) (cal : Cal) :
    ((compH32 adcH tFine cal).toNat : Int) = Reference.humidity32 adcH.toInt tFine.toInt cal.humidity := by
  obtain ⟨hnonneg, hle⟩ := humidity32_in_range adcH.toInt tFine.toInt cal.humidity
  rw [toNat_eq_u32, toInt_compH32, Reference.u32, Int.emod_eq_of_lt hnonneg (hle.trans_lt (by decide))]

/-- Settles O33: the result register holds the humidity of R331, which its clamp bounds. -/
theorem comphCompletes : Obligations.ComphCompletes := by
  intro s e k hs hp hvalid
  have hi : IsStepA .aComph comphNext := fun _ => rfl
  have hval := toNat_compH32 (adc16 e.args) (tFineArg e.args) s.a.cal
  rw [toInt_adc16] at hval
  have hbound := hval.trans_le (humidity32_in_range _ _ _).2
  exact ⟨_, hi.exec_results hs hp (if_pos hvalid), hval, by exact_mod_cast hbound⟩

end Sys2Proof.Machine
end

section
/-! O35. `EST`: the estimates are naturals small enough for a register (R351 to R353). -/

namespace Sys2Proof.Machine

theorem channelTime_eq (code : BitVec 3) (perSample overhead : Nat) :
    channelTime code perSample overhead = if code.toNat ≠ 0 then perSample * multiplier code + overhead else 0 := by
  have hzero : code = 0 ↔ code.toNat = 0 := BitVec.toNat_eq
  simp only [channelTime, hzero, ne_eq, ite_not]

theorem multiplier_le (code : BitVec 3) : multiplier code ≤ 16 := by
  revert code
  decide

theorem channelTime_le (code : BitVec 3) (perSample overhead : Nat) :
    channelTime code perSample overhead ≤ perSample * 16 + overhead := by
  unfold channelTime
  split
  · exact Nat.zero_le _
  · exact Nat.add_le_add_right (Nat.mul_le_mul_left _ (multiplier_le code)) _

theorem stepCount_le (filter : BitVec 3) : stepCount filter ≤ 22 := by
  revert filter
  decide

theorem standbyUs_le (tSb : BitVec 3) : standbyUs tSb ≤ 1000000 := by
  revert tSb
  decide

/-- Every channel at sixteen samples (R351). -/
theorem timingTyp_le (c : SensorConfig) : timingTyp c ≤ 98000 := by
  have hT := channelTime_le c.osrsT 2000 0
  have hP := channelTime_le c.osrsP 2000 500
  have hH := channelTime_le c.osrsH 2000 500
  unfold timingTyp
  omega

theorem timingMax_le (c : SensorConfig) : timingMax c ≤ 112800 := by
  have hT := channelTime_le c.osrsT 2300 0
  have hP := channelTime_le c.osrsP 2300 575
  have hH := channelTime_le c.osrsH 2300 575
  unfold timingMax
  omega

theorem timingPeriod_le (c : SensorConfig) : timingPeriod c ≤ 1112800 := by
  have hmax := timingMax_le c
  have hstandby := standbyUs_le c.tSb
  unfold timingPeriod
  split <;> omega

theorem timingRate_le (c : SensorConfig) : timingRate c ≤ 1000000000 := Nat.div_le_self _ _

theorem timingIir_le (c : SensorConfig) : timingIir c ≤ 22 * 1112800 :=
  Nat.mul_le_mul (stepCount_le c.filter) (timingPeriod_le c)

theorem timingTyp_eq (c : SensorConfig) :
    timingTyp c = 1000 + (if c.osrsT.toNat ≠ 0 then 2000 * multiplier c.osrsT else 0) +
      (if c.osrsP.toNat ≠ 0 then 2000 * multiplier c.osrsP + 500 else 0) +
      (if c.osrsH.toNat ≠ 0 then 2000 * multiplier c.osrsH + 500 else 0) := by
  simp only [timingTyp, channelTime_eq, Nat.add_zero]

theorem timingMax_eq (c : SensorConfig) :
    timingMax c = 1250 + (if c.osrsT.toNat ≠ 0 then 2300 * multiplier c.osrsT else 0) +
      (if c.osrsP.toNat ≠ 0 then 2300 * multiplier c.osrsP + 575 else 0) +
      (if c.osrsH.toNat ≠ 0 then 2300 * multiplier c.osrsH + 575 else 0) := by
  simp only [timingMax, channelTime_eq, Nat.add_zero]

theorem timingPeriod_eq (c : SensorConfig) :
    timingPeriod c = if c.mode.toNat = 3 then timingMax c + standbyUs c.tSb else timingMax c := by
  have hnormal : c.mode = 3 ↔ c.mode.toNat = 3 := BitVec.toNat_eq
  simp only [timingPeriod, hnormal]

/-- Settles O35: a valid config passes the check, and no estimate is cut by the width of its register. -/
theorem estCompletes : Obligations.EstCompletes := by
  intro s e k hs hp ot op oh f sb mode m mx per ht hpr hh hf hm
  have hi : IsStepA .aEst fun _ => estNext := fun _ => rfl
  have hmode : (configArg e.args).mode ≠ 2 := fun h => hm (congrArg BitVec.toNat h)
  have hvalid := SensorConfig.valid_of_bounds (c := configArg e.args) ht hpr hh hf hmode
  have hmx : timingMax (configArg e.args) = mx := timingMax_eq _
  have hper : timingPeriod (configArg e.args) = per := by
    rw [timingPeriod_eq, hmx]
    rfl
  have hfits {n b : Nat} (hn : n ≤ b) (hb : b < 2 ^ 32) : (BitVec.ofNat 32 n).toNat = n :=
    (BitVec.toNat_ofNat n 32).trans (Nat.mod_eq_of_lt (hn.trans_lt hb))
  refine ⟨_, _, _, _, hi.exec_results hs hp (if_pos hvalid), ?typ, ?max, ?rate, ?iir⟩
  case typ => exact (hfits (timingTyp_le _) (by decide)).trans (timingTyp_eq _)
  case max => exact (hfits (timingMax_le _) (by decide)).trans hmx
  case rate => exact (hfits (timingRate_le _) (by decide)).trans (congrArg _ hper)
  case iir => exact (hfits (timingIir_le _) (by decide)).trans (congrArg _ hper)

end Sys2Proof.Machine
end

section
/-! O36. Binary64's rounding: the integer nearest to a rational with ties to even, the significand that `F64.round` takes,
and each operation as its exact result rounded (R340). -/

namespace Sys2Proof.Machine

/-! ### The nearest integer, ties to even -/

/-- `n` lies within one half of `z`, and is even where it lies at one half. -/
def IsNearestEven (z : ℚ) (n : Int) : Prop :=
  2 * (n : ℚ) - 1 ≤ 2 * z ∧ 2 * z ≤ 2 * n + 1 ∧ (2 * z = 2 * n - 1 ∨ 2 * z = 2 * n + 1 → n % 2 = 0)

theorem isNearestEven_nearestEven (z : ℚ) : IsNearestEven z (Reference.nearestEven z) := by
  have hfloor := Int.floor_le z
  have hlt := Int.lt_floor_add_one z
  unfold Reference.nearestEven IsNearestEven
  dsimp only
  split_ifs with hlow hhigh heven
  · refine ⟨by linarith, by linarith, ?_⟩
    rintro (h | h) <;> linarith
  · push_cast
    refine ⟨by linarith, by linarith, ?_⟩
    rintro (h | h) <;> linarith
  · exact ⟨by linarith, by linarith, fun _ => heven⟩
  · push_cast
    exact ⟨by linarith, by linarith, fun _ => by omega⟩

/-- Two integers cannot both be within one half, unless the value is midway; then one of them is odd. -/
theorem IsNearestEven.not_lt {z : ℚ} {n m : Int} (hn : IsNearestEven z n) (hm : IsNearestEven z m) : ¬ n < m := by
  intro hlt
  obtain ⟨_, hupper, hneven⟩ := hn
  obtain ⟨hlower, _, hmeven⟩ := hm
  have hcast : 2 * (m : ℚ) - 1 ≤ 2 * n + 1 := hlower.trans hupper
  have hnext : m = n + 1 := by
    have : 2 * m - 1 ≤ 2 * n + 1 := by exact_mod_cast hcast
    omega
  subst hnext
  push_cast at hlower hmeven
  have hn0 := hneven (.inr (by linarith))
  have hm0 := hmeven (.inl (by linarith))
  omega

theorem nearestEven_eq_iff {z : ℚ} {n : Int} : Reference.nearestEven z = n ↔ IsNearestEven z n := by
  have hself := isNearestEven_nearestEven z
  refine ⟨fun h => h ▸ hself, fun h => ?_⟩
  exact le_antisymm (not_lt.mp (h.not_lt hself)) (not_lt.mp (hself.not_lt h))

theorem nearestEven_intCast (n : Int) : Reference.nearestEven n = n :=
  nearestEven_eq_iff.mpr ⟨by linarith, by linarith, by rintro (h | h) <;> linarith⟩

theorem nearestEven_neg (z : ℚ) : Reference.nearestEven (-z) = -Reference.nearestEven z := by
  obtain ⟨hlower, hupper, heven⟩ := isNearestEven_nearestEven z
  refine nearestEven_eq_iff.mpr ?_
  unfold IsNearestEven
  push_cast
  refine ⟨by linarith, by linarith, fun h => ?_⟩
  have := heven (h.symm.imp (fun h => by linarith) fun h => by linarith)
  omega

/-- The same of a quotient, without the division. -/
theorem isNearestEven_div_iff {a d : ℚ} {n : Int} (hd : 0 < d) :
    IsNearestEven (a / d) n ↔ (2 * n - 1) * d ≤ 2 * a ∧ 2 * a ≤ (2 * n + 1) * d ∧
      (2 * a = (2 * n - 1) * d ∨ 2 * a = (2 * n + 1) * d → n % 2 = 0) := by
  unfold IsNearestEven
  rw [← mul_div_assoc, le_div_iff₀ hd, div_le_iff₀ hd, div_eq_iff hd.ne', div_eq_iff hd.ne']

/-- No integer is nearer, and where another is as near the nearest one is even. -/
theorem IsNearestEven.nearest {z : ℚ} {n : Int} (h : IsNearestEven z n) (k : Int) :
    |n - z| ≤ |k - z| ∧ (|n - z| = |k - z| → k ≠ n → n % 2 = 0) := by
  obtain ⟨hlower, hupper, heven⟩ := h
  have hnear : |(n : ℚ) - z| ≤ 1 / 2 := abs_le.mpr ⟨by linarith, by linarith⟩
  rcases eq_or_ne k n with rfl | hne
  · exact ⟨le_rfl, fun _ hk => absurd rfl hk⟩
  have hfar : 1 / 2 ≤ |(k : ℚ) - z| := by
    rcases lt_or_gt_of_ne hne with hlt | hgt
    · have : (k : ℚ) + 1 ≤ n := by exact_mod_cast hlt
      exact le_abs.mpr (.inr (by linarith))
    · have : (n : ℚ) + 1 ≤ k := by exact_mod_cast hgt
      exact le_abs.mpr (.inl (by linarith))
  refine ⟨hnear.trans hfar, fun heq _ => heven ?_⟩
  rcases (abs_eq (by norm_num)).mp (le_antisymm hnear (heq ▸ hfar)) with hmid | hmid
  · exact .inl (by linarith)
  · exact .inr (by linarith)

/-- Rounding after a shift looks at the value only through the integers at and around it. -/
theorem nearestEven_div_two_pow_congr {u v : ℚ} (hfloor : ⌊u⌋ = ⌊v⌋) (hceil : ⌈u⌉ = ⌈v⌉) (s : Nat) :
    Reference.nearestEven (u / 2 ^ (s + 1)) = Reference.nearestEven (v / 2 ^ (s + 1)) := by
  have hle (c : Int) : (c : ℚ) ≤ u ↔ (c : ℚ) ≤ v := by rw [← Int.le_floor, ← Int.le_floor, hfloor]
  have hge (c : Int) : u ≤ (c : ℚ) ↔ v ≤ (c : ℚ) := by rw [← Int.ceil_le, ← Int.ceil_le, hceil]
  have heq (c : Int) : u = c ↔ v = c := by rw [le_antisymm_iff, le_antisymm_iff, hle, hge]
  have hiff (w : ℚ) (n : Int) : IsNearestEven (w / 2 ^ (s + 1)) n ↔
      (((2 * n - 1) * 2 ^ s : Int) : ℚ) ≤ w ∧ w ≤ (((2 * n + 1) * 2 ^ s : Int) : ℚ) ∧
      (w = (((2 * n - 1) * 2 ^ s : Int) : ℚ) ∨ w = (((2 * n + 1) * 2 ^ s : Int) : ℚ) → n % 2 = 0) := by
    have hhalf (c : ℚ) : c * 2 ^ (s + 1) = 2 * (c * 2 ^ s) := by ring
    rw [isNearestEven_div_iff (by positivity)]
    simp only [hhalf, mul_le_mul_iff_right₀ (two_pos : (0 : ℚ) < 2), mul_right_inj' (two_ne_zero : (2 : ℚ) ≠ 0)]
    push_cast
    rfl
  refine nearestEven_eq_iff.mpr ((hiff u _).mpr ?_)
  simpa only [hle, hge, heq] using (hiff v _).mp (isNearestEven_nearestEven _)

/-- Rounding a quotient with a remainder: up past one half, and at one half from an odd quotient. -/
theorem isNearestEven_of_remainder {q r d : Nat} (hd : 0 < d) (hr : r < d) :
    IsNearestEven (((d * q + r : Nat) : ℚ) / d)
      (if 2 * r > d || (2 * r == d && q % 2 == 1) then q + 1 else q : Nat) := by
  rw [isNearestEven_div_iff (by exact_mod_cast hd)]
  have hmul : ((d * q : Nat) : Int) = q * d := by push_cast; ring
  generalize hn : (if 2 * r > d || (2 * r == d && q % 2 == 1) then q + 1 else q) = n
  have hbounds : (2 * (n : Int) - 1) * d ≤ 2 * (d * q + r : Nat) ∧ 2 * ((d * q + r : Nat) : Int) ≤ (2 * n + 1) * d ∧
      (2 * ((d * q + r : Nat) : Int) = (2 * n - 1) * d ∨ 2 * ((d * q + r : Nat) : Int) = (2 * n + 1) * d →
        (n : Int) % 2 = 0) := by
    simp only [gt_iff_lt, Bool.or_eq_true, Bool.and_eq_true, decide_eq_true_eq, beq_iff_eq] at hn
    split_ifs at hn with hup
    · subst hn
      have hlow : (2 * ((q + 1 : Nat) : Int) - 1) * d = 2 * (d * q : Nat) + d := by push_cast; ring
      have hhigh : (2 * ((q + 1 : Nat) : Int) + 1) * d = 2 * (d * q : Nat) + 3 * d := by push_cast; ring
      rw [hlow, hhigh]
      omega
    · subst hn
      have hlow : (2 * (q : Int) - 1) * d = 2 * (d * q : Nat) - d := by push_cast; ring
      have hhigh : (2 * (q : Int) + 1) * d = 2 * (d * q : Nat) + d := by push_cast; ring
      rw [hlow, hhigh]
      omega
  exact_mod_cast hbounds

/-- The machine's rounded shift is the nearest integer. -/
theorem roundShift_eq_nearestEven (m sh : Nat) :
    (roundShift m sh : Int) = Reference.nearestEven ((m : ℚ) / 2 ^ sh) := by
  have hdiv : 2 ^ sh * (m / 2 ^ sh) + m % 2 ^ sh = m := Nat.div_add_mod m _
  have hround := isNearestEven_of_remainder (q := m / 2 ^ sh) (Nat.two_pow_pos sh) (Nat.mod_lt m (Nat.two_pow_pos sh))
  rw [hdiv, ← Nat.shiftRight_eq_div_pow] at hround
  exact_mod_cast (nearestEven_eq_iff.mpr hround).symm

/-! ### The last place of a number -/

/-- A power of two is a whole number of any smaller one. -/
theorem two_zpow_eq_mul {a b : Int} (h : a ≤ b) : (2 : ℚ) ^ b = ((2 ^ (b - a).toNat : Nat) : ℚ) * (2 : ℚ) ^ a := by
  have hsub : ((b - a).toNat : Int) = b - a := Int.toNat_of_nonneg (by omega)
  push_cast
  rw [← zpow_natCast, hsub, ← zpow_add₀ two_ne_zero, Int.sub_add_cancel]

theorem log_two_eq_of_bounds {x : ℚ} {k : Int} (hlow : (2 : ℚ) ^ k ≤ x) (hhigh : x < (2 : ℚ) ^ (k + 1)) :
    Int.log 2 x = k := by
  have hpos : 0 < x := (zpow_pos two_pos k).trans_le hlow
  have hge := (Int.zpow_le_iff_le_log (b := 2) one_lt_two hpos).mp (by exact_mod_cast hlow)
  have hlt := (Int.lt_zpow_iff_log_lt (b := 2) one_lt_two hpos).mp (by exact_mod_cast hhigh)
  omega

theorem log_two_mul_zpow {x : ℚ} (hx : 0 < x) (e : Int) : Int.log 2 (x * (2 : ℚ) ^ e) = Int.log 2 x + e := by
  have hpos : 0 < (2 : ℚ) ^ e := zpow_pos two_pos e
  have hlow := Int.zpow_log_le_self (b := 2) one_lt_two hx
  have hhigh := Int.lt_zpow_succ_log_self (b := 2) one_lt_two x
  push_cast at hlow hhigh
  refine log_two_eq_of_bounds ?_ ?_
  · rw [zpow_add₀ two_ne_zero]
    exact mul_le_mul_of_nonneg_right hlow hpos.le
  · rw [add_right_comm, zpow_add₀ two_ne_zero (Int.log 2 x + 1)]
    exact mul_lt_mul_of_pos_right hhigh hpos

theorem bitLength_eq {m : Nat} (hm : m ≠ 0) : bitLength m = Nat.log 2 m + 1 := by
  rw [bitLength, if_neg hm, Nat.log2_eq_log_two]

theorem lt_two_pow_bitLength (m : Nat) : m < 2 ^ bitLength m := by
  rcases eq_or_ne m 0 with rfl | hm
  · decide
  · rw [bitLength_eq hm]
    exact Nat.lt_pow_succ_log_self one_lt_two m

theorem two_pow_le_of_lt_bitLength {m k : Nat} (h : k < bitLength m) : 2 ^ k ≤ m := by
  rcases eq_or_ne m 0 with rfl | hm
  · cases h
  · rw [bitLength_eq hm] at h
    exact Nat.pow_le_of_le_log hm (by omega)

/-- The exponent of the last place that binary64 keeps of a rational (R340). -/
def lastPlaceOf (x : ℚ) : Int := max (Int.log 2 |x| - 52) (-1074)

theorem binary64Round_eq (x : ℚ) :
    Reference.binary64Round x = Reference.nearestEven (x / (2 : ℚ) ^ lastPlaceOf x) * (2 : ℚ) ^ lastPlaceOf x := rfl

theorem lastPlaceOf_natCast_mul_zpow {m : Nat} (hm : m ≠ 0) (e : Int) :
    lastPlaceOf (m * (2 : ℚ) ^ e) = lastPlace m e := by
  have hpos : (0 : ℚ) < m := by exact_mod_cast Nat.pos_of_ne_zero hm
  rw [lastPlaceOf, abs_of_pos (mul_pos hpos (zpow_pos two_pos e)), log_two_mul_zpow hpos, Int.log_natCast, lastPlace,
    bitLength_eq hm]
  congr 1
  omega

theorem binary64Round_zero : Reference.binary64Round 0 = 0 := by
  rw [binary64Round_eq, zero_div, ← Int.cast_zero, nearestEven_intCast, Int.cast_zero, zero_mul]

theorem binary64Round_neg (x : ℚ) : Reference.binary64Round (-x) = -Reference.binary64Round x := by
  have hplace : lastPlaceOf (-x) = lastPlaceOf x := by rw [lastPlaceOf, abs_neg, lastPlaceOf]
  rw [binary64Round_eq, binary64Round_eq, hplace, neg_div, nearestEven_neg, Int.cast_neg, neg_mul]

/-- Two numbers past 2^53 with the same integers at and around them round alike, wherever the binary point stands. -/
theorem binary64Round_congr {u v : ℚ} (hfloor : ⌊u⌋ = ⌊v⌋) (hceil : ⌈u⌉ = ⌈v⌉) (hbig : 2 ^ 53 ≤ v) (e : Int) :
    Reference.binary64Round (u * (2 : ℚ) ^ e) = Reference.binary64Round (v * (2 : ℚ) ^ e) := by
  have hbigu : 2 ^ 53 ≤ u := by
    have : ((2 ^ 53 : Int) : ℚ) ≤ u := Int.le_floor.mp (hfloor ▸ Int.le_floor.mpr (by exact_mod_cast hbig))
    exact_mod_cast this
  have hu : 0 < u := lt_of_lt_of_le (by norm_num) hbigu
  have hv : 0 < v := lt_of_lt_of_le (by norm_num) hbig
  have hlog : Int.log 2 u = Int.log 2 v := by
    rw [Int.log_of_one_le_right 2 (le_trans (by norm_num) hbigu), Int.log_of_one_le_right 2 (le_trans (by norm_num) hbig),
      ← Int.floor_toNat, ← Int.floor_toNat, hfloor]
  have hplace : lastPlaceOf (u * (2 : ℚ) ^ e) = lastPlaceOf (v * (2 : ℚ) ^ e) := by
    simp only [lastPlaceOf, abs_of_pos (mul_pos hu (zpow_pos two_pos e)), abs_of_pos (mul_pos hv (zpow_pos two_pos e)),
      log_two_mul_zpow hu, log_two_mul_zpow hv, hlog]
  have h53 : 53 ≤ Int.log 2 v := (Int.zpow_le_iff_le_log (b := 2) one_lt_two hv).mp (by exact_mod_cast hbig)
  have hlow : e + 1 ≤ lastPlaceOf (v * (2 : ℚ) ^ e) := by
    rw [lastPlaceOf, abs_of_pos (mul_pos hv (zpow_pos two_pos e)), log_two_mul_zpow hv]
    omega
  obtain ⟨s, hs⟩ : ∃ s : Nat, lastPlaceOf (v * (2 : ℚ) ^ e) = (s + 1 : Nat) + e :=
    ⟨(lastPlaceOf (v * (2 : ℚ) ^ e) - e - 1).toNat, by omega⟩
  have hshift (w : ℚ) : w * (2 : ℚ) ^ e / (2 : ℚ) ^ (((s + 1 : Nat) : Int) + e) = w / 2 ^ (s + 1) := by
    rw [zpow_add₀ two_ne_zero, zpow_natCast, mul_div_mul_right _ _ (zpow_ne_zero e two_ne_zero)]
  rw [binary64Round_eq, binary64Round_eq, hplace, hs, hshift, hshift, nearestEven_div_two_pow_congr hfloor hceil]

/-! ### The machine's rounding -/

/-- The significand and exponent that `F64.round` takes are the number's binary64. -/
theorem round_eq_binary64Round (neg : Bool) (m : Nat) (e : Int) :
    ((F64.round neg m e).mant : ℚ) * (2 : ℚ) ^ (F64.round neg m e).exp = Reference.binary64Round (m * (2 : ℚ) ^ e) := by
  rcases eq_or_ne m 0 with rfl | hm
  · have hzero : (F64.round neg 0 e).mant = 0 := by
      have hshift (sh : Nat) : roundShift 0 sh = 0 := by simp [roundShift]
      simp only [F64.round, hshift]
      split <;> rfl
    rw [hzero, Nat.cast_zero, zero_mul, zero_mul, binary64Round_zero]
  rw [binary64Round_eq, lastPlaceOf_natCast_mul_zpow hm]
  unfold F64.round
  dsimp only
  have hne : (2 : ℚ) ^ lastPlace m e ≠ 0 := zpow_ne_zero _ two_ne_zero
  split_ifs with h
  · rw [two_zpow_eq_mul h, ← mul_assoc, mul_div_assoc, div_self hne, mul_one]
    exact_mod_cast congrArg (fun n : Int => (n : ℚ) * (2 : ℚ) ^ lastPlace m e)
      (nearestEven_intCast (m * 2 ^ (e - lastPlace m e).toNat : Nat)).symm
  · have hscale : (m : ℚ) * (2 : ℚ) ^ e / (2 : ℚ) ^ lastPlace m e = m / 2 ^ (lastPlace m e - e).toNat := by
      rw [two_zpow_eq_mul (not_le.mp h).le, mul_div_mul_right _ _ (zpow_ne_zero e two_ne_zero)]
      norm_cast
    rw [hscale, ← roundShift_eq_nearestEven, Int.cast_natCast]

/-- A value of the format: a significand of at most 53 bits, 2^53 itself included, and no place below 2^-1074. -/
def F64.Fits (x : F64) : Prop := x.mant ≤ 2 ^ 53 ∧ -1074 ≤ x.exp

theorem roundShift_le (m sh : Nat) : roundShift m sh ≤ m / 2 ^ sh + 1 := by
  unfold roundShift
  rw [Nat.shiftRight_eq_div_pow]
  dsimp only
  split <;> omega

theorem fits_round (neg : Bool) (m : Nat) (e : Int) : (F64.round neg m e).Fits := by
  unfold F64.round
  dsimp only
  split_ifs with h
  · unfold lastPlace at h
    have hmant : m < 2 ^ 53 := (lt_two_pow_bitLength m).trans_le (Nat.pow_le_pow_right two_pos (by omega))
    exact ⟨hmant.le, (le_max_right _ _).trans h⟩
  · refine ⟨(roundShift_le m _).trans ?_, le_max_right _ _⟩
    refine Nat.succ_le_of_lt (Nat.div_lt_of_lt_mul ((lt_two_pow_bitLength m).trans_le ?_))
    rw [← pow_add]
    refine Nat.pow_le_pow_right two_pos ?_
    unfold lastPlace
    omega

/-- In units of `u`: a candidate that is a multiple of `u` is no nearer than the nearest multiple, and neither is one with
a multiple of `u` between it and the number. -/
theorem IsNearestEven.nearest_of_multiple_or_below {z : ℚ} {n : Int} (h : IsNearestEven z n) {u : ℚ} (hu : 0 < u) {w : ℚ}
    (hw : (∃ k : Int, w = k * u) ∨ ∃ k : Int, w ≤ k * u ∧ k * u ≤ z * u) :
    |n * u - z * u| ≤ |w - z * u| ∧ (|n * u - z * u| = |w - z * u| → w ≠ n * u → n % 2 = 0) := by
  have hmultiple (k : Int) : |n * u - z * u| ≤ |k * u - z * u| ∧
      (|n * u - z * u| = |k * u - z * u| → (k : ℚ) * u ≠ n * u → n % 2 = 0) := by
    obtain ⟨hle, heven⟩ := h.nearest k
    rw [← sub_mul, ← sub_mul, abs_mul, abs_mul, mul_left_inj' (abs_pos.mpr hu.ne').ne']
    exact ⟨mul_le_mul_of_nonneg_right hle (abs_nonneg u), fun heq hne => heven heq fun hk => hne (by rw [hk])⟩
  rcases hw with ⟨k, rfl⟩ | ⟨k, hwk, hkz⟩
  · exact hmultiple k
  · obtain ⟨hle, heven⟩ := hmultiple k
    have hdistw : |w - z * u| = z * u - w := by rw [abs_of_nonpos (by linarith), neg_sub]
    have hdistk : |k * u - z * u| = z * u - k * u := by rw [abs_of_nonpos (by linarith), neg_sub]
    rw [hdistk] at hle heven
    rw [hdistw]
    refine ⟨by linarith, fun heq hne => ?_⟩
    have hwk : w = k * u := by linarith
    exact heven (by rw [← hwk, heq]) (hwk ▸ hne)

/-- Past the last place kept of a number, a value of the format is a multiple of it, or lies below the number's own power
of two. -/
theorem multiple_or_below_of_fits {m m' : Nat} {e e' : Int} (h : e < lastPlace m e) (hm' : m' ≤ 2 ^ 53)
    (he' : -1074 ≤ e') :
    (∃ k : Int, (m' : ℚ) * (2 : ℚ) ^ e' = k * (2 : ℚ) ^ lastPlace m e) ∨
    ∃ k : Int, (m' : ℚ) * (2 : ℚ) ^ e' ≤ k * (2 : ℚ) ^ lastPlace m e ∧
      k * (2 : ℚ) ^ lastPlace m e ≤ (m : ℚ) * (2 : ℚ) ^ e := by
  rcases le_or_gt (lastPlace m e) e' with hle | hlt
  · refine .inl ⟨(m' * 2 ^ (e' - lastPlace m e).toNat : Nat), ?_⟩
    rw [two_zpow_eq_mul hle]
    push_cast
    ring
  · have hplace : lastPlace m e = e + bitLength m - 53 := by
      unfold lastPlace at hlt ⊢
      omega
    refine .inr ⟨2 ^ 52, ?below, ?atMost⟩
    case below =>
      have hbound : (m' : ℚ) ≤ 2 ^ 53 := by exact_mod_cast hm'
      have hstep : (2 : ℚ) ^ e' ≤ (2 : ℚ) ^ (lastPlace m e - 1) := zpow_le_zpow_right₀ one_le_two (by omega)
      calc (m' : ℚ) * (2 : ℚ) ^ e' ≤ 2 ^ 53 * (2 : ℚ) ^ (lastPlace m e - 1) :=
            mul_le_mul hbound hstep (zpow_pos two_pos _).le (by positivity)
        _ = ((2 ^ 52 : Int) : ℚ) * (2 : ℚ) ^ lastPlace m e := by
            rw [zpow_sub_one₀ two_ne_zero]
            push_cast
            ring
    case atMost =>
      have hpow : ((2 ^ (bitLength m - 1) : Nat) : ℚ) ≤ m :=
        Nat.cast_le.mpr (two_pow_le_of_lt_bitLength (by omega))
      have hsplit : (lastPlace m e - e).toNat = bitLength m - 53 := by omega
      calc ((2 ^ 52 : Int) : ℚ) * (2 : ℚ) ^ lastPlace m e
          = ((2 ^ (bitLength m - 1) : Nat) : ℚ) * (2 : ℚ) ^ e := by
            rw [two_zpow_eq_mul h.le, hsplit, ← mul_assoc, show bitLength m - 1 = 52 + (bitLength m - 53) by omega]
            push_cast
            ring
        _ ≤ (m : ℚ) * (2 : ℚ) ^ e := mul_le_mul_of_nonneg_right hpow (zpow_pos two_pos e).le

/-- No value of the format is nearer than the rounded one, and where another is as near its significand is even. -/
theorem round_nearest (neg : Bool) (m : Nat) (e : Int) {m' : Nat} {e' : Int} (hm' : m' ≤ 2 ^ 53) (he' : -1074 ≤ e') :
    let x : ℚ := (m : ℚ) * (2 : ℚ) ^ e
    let y : ℚ := ((F64.round neg m e).mant : ℚ) * (2 : ℚ) ^ (F64.round neg m e).exp
    |y - x| ≤ |(m' : ℚ) * (2 : ℚ) ^ e' - x| ∧
    (|y - x| = |(m' : ℚ) * (2 : ℚ) ^ e' - x| → (m' : ℚ) * (2 : ℚ) ^ e' ≠ y → (F64.round neg m e).mant % 2 = 0) := by
  intro x y
  by_cases hexact : lastPlace m e ≤ e
  · have hround : F64.round neg m e = ⟨neg, m, e⟩ := if_pos hexact
    have hy : y = x := by simp only [y, x, hround]
    rw [hy, sub_self, abs_zero]
    exact ⟨abs_nonneg _, fun h hne => absurd (sub_eq_zero.mp (abs_eq_zero.mp h.symm)) hne⟩
  · have hround : F64.round neg m e = ⟨neg, roundShift m (lastPlace m e - e).toNat, lastPlace m e⟩ := if_neg hexact
    have hx : (m : ℚ) * (2 : ℚ) ^ e = (m : ℚ) / 2 ^ (lastPlace m e - e).toNat * (2 : ℚ) ^ lastPlace m e := by
      rw [two_zpow_eq_mul (not_le.mp hexact).le, Nat.cast_pow, Nat.cast_ofNat, ← mul_assoc,
        div_mul_cancel₀ _ (by positivity)]
    have hy : y = ((roundShift m (lastPlace m e - e).toNat : Int) : ℚ) * (2 : ℚ) ^ lastPlace m e := by
      simp only [y, hround, Int.cast_natCast]
    have hcandidate := multiple_or_below_of_fits (not_le.mp hexact) hm' he'
    rw [hx] at hcandidate
    have hnearest := (nearestEven_eq_iff.mp (roundShift_eq_nearestEven m (lastPlace m e - e).toNat).symm)
      |>.nearest_of_multiple_or_below (zpow_pos two_pos (lastPlace m e)) hcandidate
    rw [← hx, ← hy] at hnearest
    rw [hround]
    exact ⟨hnearest.1, fun heq hne => by exact_mod_cast hnearest.2 heq hne⟩

/-! ### The operations -/

/-- The factor that a sign bit stands for. -/
def signFactor (neg : Bool) : ℚ := if neg then -1 else 1

theorem signed_eq (x : F64) : x.signed = ⟨x.neg, signFactor x.neg * x.mant * (2 : ℚ) ^ x.exp⟩ := rfl

theorem signFactor_xor (a b : Bool) : signFactor (a ^^ b) = signFactor a * signFactor b := by
  cases a <;> cases b <;> norm_num [signFactor]

theorem signFactor_xor_eq_div (a b : Bool) : signFactor (a ^^ b) = signFactor a / signFactor b := by
  cases a <;> cases b <;> norm_num [signFactor]

theorem signFactor_decide_mul_natAbs (i : Int) : signFactor (decide (i < 0)) * (i.natAbs : ℚ) = i := by
  rw [Nat.cast_natAbs]
  rcases lt_or_ge i 0 with h | h
  · simp [signFactor, h, abs_of_neg h]
  · simp [signFactor, h, abs_of_nonneg h]

theorem neg_round (neg : Bool) (m : Nat) (e : Int) : (F64.round neg m e).neg = neg := by
  unfold F64.round
  dsimp only
  split <;> rfl

/-- The machine's rounding of a magnitude, signed, is the rounding of the signed number. -/
theorem signed_round {neg zeroNeg : Bool} {m : Nat} {e : Int} {a : ℚ} (ha : 0 ≤ a)
    (hround : Reference.binary64Round (m * (2 : ℚ) ^ e) = Reference.binary64Round a) (hzero : a = 0 → neg = zeroNeg) :
    (F64.round neg m e).signed = Reference.Signed.rounded zeroNeg (signFactor neg * a) := by
  rw [signed_eq, neg_round, mul_assoc, round_eq_binary64Round, hround, Reference.Signed.rounded]
  congr 1
  · rcases ha.eq_or_lt with rfl | hpos
    · simpa using hzero rfl
    · cases neg <;> simp [signFactor, hpos, hpos.ne', hpos.le]
  · cases neg <;> simp [signFactor, binary64Round_neg]

theorem signed_mul (x y : F64) : (x.mul y).signed = x.signed.mul y.signed := by
  have hval : x.signed.val * y.signed.val =
      signFactor (x.neg ^^ y.neg) * (((x.mant * y.mant : Nat) : ℚ) * (2 : ℚ) ^ (x.exp + y.exp)) := by
    rw [signed_eq, signed_eq, signFactor_xor, zpow_add₀ two_ne_zero, Nat.cast_mul]
    ring
  rw [Reference.Signed.mul, hval]
  exact signed_round (by positivity) rfl fun _ => rfl

theorem scaled_mul_zpow (x : F64) {e : Int} (h : e ≤ x.exp) : (x.scaled e : ℚ) * (2 : ℚ) ^ e = x.signed.val := by
  rw [signed_eq, two_zpow_eq_mul h, F64.scaled, Nat.shiftLeft_eq]
  cases x.neg <;> simp [signFactor, mul_assoc]

/-- A sum of two scaled significands that is 0 takes its sign from the terms; another is rounded once. -/
theorem signed_add (x y : F64) : (x.add y).signed = x.signed.add y.signed := by
  have hval : x.signed.val + y.signed.val =
      ((x.scaled (min x.exp y.exp) + y.scaled (min x.exp y.exp) : Int) : ℚ) * (2 : ℚ) ^ min x.exp y.exp := by
    rw [← scaled_mul_zpow x (min_le_left _ y.exp), ← scaled_mul_zpow y (min_le_right x.exp _), Int.cast_add, add_mul]
  rw [Reference.Signed.add, hval]
  unfold F64.add
  dsimp only
  generalize x.scaled (min x.exp y.exp) + y.scaled (min x.exp y.exp) = s
  split_ifs with hs
  · rw [hs, signed_eq, Reference.Signed.rounded]
    simp [binary64Round_zero, signed_eq]
  · rw [← signFactor_decide_mul_natAbs s, mul_assoc]
    refine signed_round (by positivity) rfl fun h => absurd ?_ hs
    exact Int.natAbs_eq_zero.mp (by exact_mod_cast (mul_eq_zero.mp h).resolve_right (zpow_ne_zero _ two_ne_zero))

theorem signed_negate (y : F64) : y.negate.signed = ⟨!y.neg, -y.signed.val⟩ := by
  rw [signed_eq, signed_eq, F64.negate]
  cases y.neg <;> simp [signFactor]

theorem signed_sub (x y : F64) : (x.sub y).signed = x.signed.sub y.signed := by
  rw [F64.sub, signed_add, signed_negate]
  rfl

/-- The ceiling of a quotient is one past its floor where the division leaves a remainder. -/
theorem ceil_natCast_div (a : Nat) {b : Nat} (hb : b ≠ 0) :
    ⌈(a : ℚ) / b⌉ = ((a / b + if a % b = 0 then 0 else 1 : Nat) : Int) := by
  have hsign : (b : Int).sign = 1 := Int.sign_eq_one_of_pos (by omega)
  rw [Rat.ceil_natCast_div_natCast, Int.neg_ediv, hsign]
  simp only [Int.natCast_dvd_natCast, Nat.dvd_iff_mod_eq_zero]
  split <;> push_cast <;> ring

/-- The quotient with its sticky bit rounds as the exact quotient does: half of it has the same integers at and around
it. -/
theorem binary64Round_sticky {a b : Nat} (hb : b ≠ 0) (hbig : 2 ^ 53 * b ≤ a) (e : Int) :
    Reference.binary64Round (((2 * (a / b) + if a % b = 0 then 0 else 1 : Nat) : ℚ) * (2 : ℚ) ^ (e - 1)) =
      Reference.binary64Round ((a : ℚ) / b * (2 : ℚ) ^ e) := by
  have hbpos : (0 : ℚ) < b := by exact_mod_cast Nat.pos_of_ne_zero hb
  obtain ⟨M, hM⟩ : ∃ M, (2 * (a / b) + if a % b = 0 then 0 else 1) = M := ⟨_, rfl⟩
  have hhalf : (M : ℚ) * (2 : ℚ) ^ (e - 1) = (M : ℚ) / (2 : Nat) * (2 : ℚ) ^ e := by
    rw [zpow_sub_one₀ two_ne_zero, Nat.cast_ofNat]
    ring
  rw [hM, hhalf]
  refine binary64Round_congr ?floor ?ceil ?big e
  case floor =>
    rw [Rat.floor_natCast_div_natCast, Rat.floor_natCast_div_natCast, ← Int.natCast_ediv, ← Int.natCast_ediv]
    congr 1
    split at hM <;> omega
  case ceil =>
    rw [ceil_natCast_div M two_ne_zero, ceil_natCast_div a hb]
    congr 1
    split at hM <;> split <;> omega
  case big =>
    rw [le_div_iff₀ hbpos]
    exact_mod_cast hbig

theorem signed_div (x : F64) {y : F64} (hy : y.mant ≠ 0) : (x.div y).signed = x.signed.div y.signed := by
  have hval : x.signed.val / y.signed.val =
      signFactor (x.neg ^^ y.neg) * ((x.mant : ℚ) / y.mant * (2 : ℚ) ^ (x.exp - y.exp)) := by
    rw [signed_eq, signed_eq, signFactor_xor_eq_div, zpow_sub₀ two_ne_zero]
    ring
  rw [Reference.Signed.div, hval]
  refine signed_round (by positivity) ?_ fun _ => rfl
  obtain ⟨k, hk⟩ : ∃ k, 64 + bitLength y.mant = k := ⟨_, rfl⟩
  rw [hk, Nat.shiftLeft_eq]
  rcases eq_or_ne x.mant 0 with hx | hx
  · simp [hx]
  have hbig : 2 ^ 53 * y.mant ≤ x.mant * 2 ^ k :=
    calc 2 ^ 53 * y.mant ≤ 2 ^ 64 * 2 ^ bitLength y.mant :=
          Nat.mul_le_mul (by decide) (lt_two_pow_bitLength y.mant).le
      _ = 1 * 2 ^ k := by rw [← pow_add, hk, one_mul]
      _ ≤ x.mant * 2 ^ k := Nat.mul_le_mul_right _ (Nat.one_le_iff_ne_zero.mpr hx)
  refine (binary64Round_sticky hy hbig _).trans (congrArg _ ?_)
  rw [zpow_sub₀ two_ne_zero (x.exp - y.exp), zpow_natCast]
  push_cast
  field_simp

theorem signed_ofInt (i : Int) : (F64.ofInt i).signed = Reference.Signed.ofInt i := by
  have hval := signFactor_decide_mul_natAbs i
  rw [signed_eq, F64.ofInt, hval, zpow_zero, mul_one]
  rfl

/-- Settles O36: one rounding, `round_eq_binary64Round`, under every operation. -/
theorem roundingNearestEven : Obligations.RoundingNearestEven := by
  refine ⟨fun neg m e => ?_, fun x y => ⟨signed_add x y, signed_sub x y, signed_mul x y, signed_div x⟩, signed_ofInt⟩
  obtain ⟨hmant, hexp⟩ := fits_round neg m e
  exact ⟨neg_round neg m e, round_eq_binary64Round neg m e, hmant, hexp, fun _ _ hm' he' => round_nearest neg m e hm' he'⟩

end Sys2Proof.Machine
end

section
/-! O34. `COMPHF`: the lines of R342 one by one over the rationals, and the number that the bits of a result stand for. -/

namespace Sys2Proof.Machine

/-! ### The lines of R342 -/

theorem signed_f64OfWord (w : Word) : (f64OfWord w).signed = Reference.Signed.ofInt w.toInt := signed_ofInt _

/-- The value that R342 clamps. -/
def productFloat (adcH tFine : Int) (H : Nat → Int) : Reference.Signed :=
  let f := Reference.Signed.ofInt
  let v := (f tFine).sub (f 76800)
  let t1 := (f (H 4)).mul (f 64)
  let t2 := ((f (H 5)).div (f 16384)).mul v
  let t3 := (f adcH).sub (t1.add t2)
  let u1 := ((f (H 3)).div (f 67108864)).mul v
  let u2 := (f 1).add u1
  let u3 := (((f (H 6)).div (f 67108864)).mul v).mul u2
  let u4 := (f 1).add u3
  let u5 := ((f (H 2)).div (f 65536)).mul u4
  let v := t3.mul u5
  let w1 := ((f (H 1)).mul v).div (f 524288)
  v.mul ((f 1).sub w1)

/-- The clamp of R342. -/
def clampFloat (v : Reference.Signed) : Reference.Signed :=
  if 100 < v.val then .ofInt 100 else if v.val < 0 then .ofInt 0 else v

theorem humidityFloat_eq (adcH tFine : Int) (H : Nat → Int) :
    Reference.humidityFloat adcH tFine H = clampFloat (productFloat adcH tFine H) := rfl

theorem signed_compHfProduct (adcH tFine : Word) (cal : Cal) :
    (compHfProduct adcH tFine cal).signed = productFloat adcH.toInt tFine.toInt cal.humidity := by
  have hdiv (x : F64) {i : Int} (hi : i ≠ 0) :
      (x.div (F64.ofInt i)).signed = x.signed.div (Reference.Signed.ofInt i) := by
    rw [signed_div x (Int.natAbs_ne_zero.mpr hi), signed_ofInt]
  simp only [compHfProduct, productFloat, signed_add, signed_sub, signed_mul, hdiv _ (by decide : (16384 : Int) ≠ 0),
    hdiv _ (by decide : (67108864 : Int) ≠ 0), hdiv _ (by decide : (65536 : Int) ≠ 0),
    hdiv _ (by decide : (524288 : Int) ≠ 0), signed_f64OfWord, signed_ofInt, toInt_coef_humidity]

theorem lt_iff_val_lt (x y : F64) : x.lt y = true ↔ x.signed.val < y.signed.val := by
  rw [← scaled_mul_zpow x (min_le_left _ y.exp), ← scaled_mul_zpow y (min_le_right x.exp _),
    mul_lt_mul_iff_left₀ (zpow_pos two_pos _), Int.cast_lt]
  exact decide_eq_true_iff

theorem signed_clampPercent (v : F64) : (clampPercent v).signed = clampFloat v.signed := by
  have hhundred : (F64.ofInt 100).lt v = true ↔ 100 < v.signed.val := by
    rw [lt_iff_val_lt, signed_ofInt]
    rfl
  have hzero : v.lt (F64.ofInt 0) = true ↔ v.signed.val < 0 := by
    rw [lt_iff_val_lt, signed_ofInt]
    rfl
  simp only [clampPercent, clampFloat, hhundred, hzero]
  split_ifs
  · exact signed_ofInt 100
  · exact signed_ofInt 0
  · rfl

theorem clampFloat_in_range (v : Reference.Signed) : 0 ≤ (clampFloat v).val ∧ (clampFloat v).val ≤ 100 := by
  unfold clampFloat
  split_ifs with hhigh hlow
  · exact ⟨by norm_num [Reference.Signed.ofInt], by norm_num [Reference.Signed.ofInt]⟩
  · exact ⟨by norm_num [Reference.Signed.ofInt], by norm_num [Reference.Signed.ofInt]⟩
  · exact ⟨not_lt.mp hlow, not_lt.mp hhigh⟩

theorem fits_compHf (adcH tFine : Word) (cal : Cal) : (compHf adcH tFine cal).Fits := by
  unfold compHf clampPercent
  split_ifs
  · exact ⟨by decide, by decide⟩
  · exact ⟨by decide, by decide⟩
  · exact fits_round _ _ _

/-! ### The bits of a binary64 value -/

/-- The fields of a binary64 value put in place: sign, biased exponent, fraction. -/
def packed (neg : Bool) (ex frac : Nat) : Dword := BitVec.ofNat 64 ((if neg then 2 ^ 63 else 0) + ex * 2 ^ 52 + frac)

/-- The number that an exponent field and a fraction stand for. -/
def magnitude (ex frac : Nat) : ℚ :=
  if ex = 0 then (frac : ℚ) * (2 : ℚ) ^ (-1074 : Int) else (2 ^ 52 + (frac : ℚ)) * (2 : ℚ) ^ ((ex : Int) - 1075)

section
variable (neg : Bool) {ex frac : Nat} (hex : ex < 2 ^ 11) (hfrac : frac < 2 ^ 52)
include hex hfrac

theorem toNat_packed : (packed neg ex frac).toNat = (if neg then 2 ^ 63 else 0) + ex * 2 ^ 52 + frac := by
  refine (BitVec.toNat_ofNat _ _).trans (Nat.mod_eq_of_lt ?_)
  split <;> omega

theorem packed_sign : (packed neg ex frac).getLsbD 63 = neg := by
  rw [BitVec.getLsbD, toNat_packed neg hex hfrac, Nat.testBit_eq_decide_div_mod_eq]
  cases neg <;> simp <;> omega

theorem packed_exponent : ((packed neg ex frac).extractLsb' 52 11).toNat = ex := by
  rw [BitVec.extractLsb'_toNat, toNat_packed neg hex hfrac, Nat.shiftRight_eq_div_pow]
  split <;> omega

theorem packed_fraction : ((packed neg ex frac).extractLsb' 0 52).toNat = frac := by
  rw [BitVec.extractLsb'_toNat, toNat_packed neg hex hfrac, Nat.shiftRight_eq_div_pow]
  split <;> omega

theorem binary64Value_packed :
    Reference.binary64Value (packed neg ex frac) = signFactor neg * magnitude ex frac := by
  unfold Reference.binary64Value magnitude
  rw [packed_sign neg hex hfrac, packed_exponent neg hex hfrac, packed_fraction neg hex hfrac]
  dsimp only
  rw [signFactor]
  split_ifs <;> ring

end

/-- A significand of the format shifted to have its leading bit at place 52 loses no bit. -/
theorem normalized_significand {m : Nat} (hm : m ≠ 0) (hle : m ≤ 2 ^ 53) :
    (m <<< 53) >>> bitLength m * 2 ^ bitLength m = m * 2 ^ 53 ∧
    2 ^ 52 ≤ (m <<< 53) >>> bitLength m ∧ (m <<< 53) >>> bitLength m < 2 ^ 53 := by
  have hdvd : 2 ^ bitLength m ∣ m * 2 ^ 53 := by
    rcases le_or_gt (bitLength m) 53 with h | h
    · exact dvd_mul_of_dvd_right (pow_dvd_pow 2 h) m
    · have hm53 : m = 2 ^ 53 := le_antisymm hle (two_pow_le_of_lt_bitLength h)
      subst hm53
      decide
  have hpos : 0 < 2 ^ bitLength m := Nat.two_pow_pos _
  have hexact : (m <<< 53) >>> bitLength m * 2 ^ bitLength m = m * 2 ^ 53 := by
    rw [Nat.shiftLeft_eq, Nat.shiftRight_eq_div_pow, Nat.div_mul_cancel hdvd]
  have hlength : bitLength m = bitLength m - 1 + 1 := by
    rw [bitLength_eq hm]
    rfl
  have hlead : 2 ^ (bitLength m - 1) ≤ m := two_pow_le_of_lt_bitLength (by omega)
  refine ⟨hexact, Nat.le_of_mul_le_mul_right ?_ hpos, Nat.lt_of_mul_lt_mul_right (a := 2 ^ bitLength m) ?_⟩
  · calc 2 ^ 52 * 2 ^ bitLength m = 2 ^ (bitLength m - 1) * 2 ^ 53 := by
          rw [← pow_add, ← pow_add, show 52 + bitLength m = bitLength m - 1 + 53 by omega]
      _ ≤ m * 2 ^ 53 := Nat.mul_le_mul_right _ hlead
      _ = _ := hexact.symm
  · calc _ = m * 2 ^ 53 := hexact
      _ < 2 ^ bitLength m * 2 ^ 53 := Nat.mul_lt_mul_of_pos_right (lt_two_pow_bitLength m) (by decide)
      _ = 2 ^ 53 * 2 ^ bitLength m := Nat.mul_comm _ _

/-- The machine packs `x` with these fields, and they stand for its number. -/
def F64.PackedAs (x : F64) (ex frac : Nat) : Prop :=
  ex < 2047 ∧ frac < 2 ^ 52 ∧ x.bits = packed x.neg ex frac ∧ magnitude ex frac = (x.mant : ℚ) * (2 : ℚ) ^ x.exp

theorem packedAs_zero {x : F64} (hzero : x.mant = 0) : x.PackedAs 0 0 := by
  refine ⟨by decide, by decide, ?bits, ?value⟩
  case bits =>
    unfold F64.bits
    rw [if_pos hzero]
    rfl
  case value => rw [hzero, magnitude, if_pos rfl, Nat.cast_zero, zero_mul, zero_mul]

theorem packedAs_subnormal {x : F64} (hne : x.mant ≠ 0) (hexp : -1074 ≤ x.exp)
    (hlead : x.exp + bitLength x.mant - 1 < -1022) : x.PackedAs 0 (x.mant <<< (x.exp + 1074).toNat) := by
  refine ⟨by decide, ?bound, ?bits, ?value⟩
  case bound =>
    rw [Nat.shiftLeft_eq]
    calc x.mant * 2 ^ (x.exp + 1074).toNat < 2 ^ bitLength x.mant * 2 ^ (x.exp + 1074).toNat :=
          Nat.mul_lt_mul_of_pos_right (lt_two_pow_bitLength _) (Nat.two_pow_pos _)
      _ = 2 ^ (bitLength x.mant + (x.exp + 1074).toNat) := (pow_add _ _ _).symm
      _ ≤ 2 ^ 52 := Nat.pow_le_pow_right two_pos (by omega)
  case bits =>
    unfold F64.bits
    rw [if_neg hne, if_pos hlead]
    rfl
  case value =>
    rw [magnitude, if_pos rfl, two_zpow_eq_mul hexp, Nat.shiftLeft_eq, sub_neg_eq_add, Nat.cast_mul, mul_assoc]

theorem packedAs_normal {x : F64} (hne : x.mant ≠ 0) (hmant : x.mant ≤ 2 ^ 53)
    (hlow : ¬ x.exp + bitLength x.mant - 1 < -1022) (hhigh : ¬ x.exp + bitLength x.mant - 1 > 1023) :
    x.PackedAs (x.exp + bitLength x.mant - 1 + 1023).toNat ((x.mant <<< 53) >>> bitLength x.mant - 2 ^ 52) := by
  obtain ⟨hexact, hge, hlt⟩ := normalized_significand hne hmant
  refine ⟨by omega, by omega, ?bits, ?value⟩
  case bits =>
    unfold F64.bits
    rw [if_neg hne, if_neg hlow, if_neg hhigh]
    rfl
  case value =>
    have hfield : ((x.exp + bitLength x.mant - 1 + 1023).toNat : Int) - 1075 = bitLength x.mant + (x.exp - 53) := by
      omega
    have hsignificand : (2 : ℚ) ^ 52 + (((x.mant <<< 53) >>> bitLength x.mant - 2 ^ 52 : Nat) : ℚ) =
        ((x.mant <<< 53) >>> bitLength x.mant : Nat) := by
      exact_mod_cast Nat.add_sub_cancel' hge
    have hexactQ : (((x.mant <<< 53) >>> bitLength x.mant : Nat) : ℚ) * 2 ^ bitLength x.mant = x.mant * 2 ^ 53 := by
      exact_mod_cast hexact
    have hcancel : 2 ^ 53 * (2 : ℚ) ^ (x.exp - 53) = (2 : ℚ) ^ x.exp := by
      rw [← zpow_natCast, ← zpow_add₀ two_ne_zero, Nat.cast_ofNat, add_sub_cancel]
    rw [magnitude, if_neg (by omega), hfield, hsignificand, zpow_add₀ two_ne_zero, zpow_natCast, ← mul_assoc, hexactQ,
      mul_assoc, hcancel]

/-- The leading bit of a value below 2^1024 lies within the format's range. -/
theorem lead_le_of_lt {m : Nat} {e : Int} (hne : m ≠ 0) (hlt : (m : ℚ) * (2 : ℚ) ^ e < (2 : ℚ) ^ (1024 : Int)) :
    ¬ e + bitLength m - 1 > 1023 := by
  intro hlead
  have hlength := bitLength_eq hne
  have hpow : ((2 ^ (bitLength m - 1) : Nat) : ℚ) ≤ m := Nat.cast_le.mpr (two_pow_le_of_lt_bitLength (by omega))
  refine absurd hlt (not_lt.mpr ?_)
  calc (2 : ℚ) ^ (1024 : Int) ≤ (2 : ℚ) ^ (((bitLength m - 1 : Nat) : Int) + e) :=
        zpow_le_zpow_right₀ one_le_two (by omega)
    _ = ((2 ^ (bitLength m - 1) : Nat) : ℚ) * (2 : ℚ) ^ e := by
        rw [zpow_add₀ two_ne_zero, zpow_natCast, Nat.cast_pow, Nat.cast_ofNat]
    _ ≤ (m : ℚ) * (2 : ℚ) ^ e := mul_le_mul_of_nonneg_right hpow (zpow_pos two_pos e).le

/-- A finite value of the format is packed as a zero, a subnormal or a normal number. -/
theorem exists_packedAs {x : F64} (hfits : x.Fits) (hlt : (x.mant : ℚ) * (2 : ℚ) ^ x.exp < (2 : ℚ) ^ (1024 : Int)) :
    ∃ ex frac, x.PackedAs ex frac := by
  obtain ⟨hmant, hexp⟩ := hfits
  by_cases hzero : x.mant = 0
  · exact ⟨_, _, packedAs_zero hzero⟩
  by_cases hsub : x.exp + bitLength x.mant - 1 < -1022
  · exact ⟨_, _, packedAs_subnormal hzero hexp hsub⟩
  · exact ⟨_, _, packedAs_normal hzero hmant hsub (lead_le_of_lt hzero hlt)⟩

/-- The bits of a finite value of the format are a finite binary64, with its number and its sign (R340). -/
theorem binary64Value_bits {x : F64} (hfits : x.Fits)
    (hlt : (x.mant : ℚ) * (2 : ℚ) ^ x.exp < (2 : ℚ) ^ (1024 : Int)) :
    x.bits.extractLsb' 52 11 ≠ 0x7FF ∧ Reference.binary64Value x.bits = x.signed.val ∧ x.bits.getLsbD 63 = x.neg := by
  obtain ⟨ex, frac, hex, hfrac, hbits, hval⟩ := exists_packedAs hfits hlt
  have hex' : ex < 2 ^ 11 := hex.trans (by decide)
  rw [hbits]
  refine ⟨fun h => ?_, ?_, packed_sign x.neg hex' hfrac⟩
  · have hfield := packed_exponent x.neg hex' hfrac
    rw [h] at hfield
    exact absurd hfield hex.ne'
  · rw [binary64Value_packed x.neg hex' hfrac, hval, signed_eq, mul_assoc]

theorem abs_val (x : F64) : |x.signed.val| = (x.mant : ℚ) * (2 : ℚ) ^ x.exp := by
  rw [signed_eq]
  cases x.neg <;> simp [signFactor]

/-- Settles O34: the result is R342's value, and of the format and in range, so its bits stand for it. -/
theorem comphfCompletes : Obligations.ComphfCompletes := by
  intro s e k hs hp hvalid
  have hi : IsStepA .aComphf comphfNext := fun _ => rfl
  obtain ⟨h, hh⟩ : ∃ h, compHf (adc16 e.args) (tFineArg e.args) s.a.cal = h := ⟨_, rfl⟩
  have hdone : comphfNext s.a e k = .done { res := { r0 := some h.lowWord, r1 := some h.highWord } } :=
    hh ▸ if_pos hvalid
  have hsigned : h.signed =
      Reference.humidityFloat (e.args.r0.toNat % 2 ^ 16 : Nat) e.args.r1.toInt s.a.cal.humidity := by
    rw [← toInt_adc16, humidityFloat_eq, ← hh, compHf, signed_clampPercent, signed_compHfProduct]
    rfl
  have hrange := clampFloat_in_range
    (productFloat (e.args.r0.toNat % 2 ^ 16 : Nat) e.args.r1.toInt s.a.cal.humidity)
  rw [← humidityFloat_eq, ← hsigned] at hrange
  have hword : h.highWord ++ h.lowWord = h.bits := BitVec.extractLsb'_append_extractLsb' (w := 32) (len := 32)
  have hlt : (h.mant : ℚ) * (2 : ℚ) ^ h.exp < (2 : ℚ) ^ (1024 : Int) := by
    have habs : h.mant * (2 : ℚ) ^ h.exp = |h.signed.val| := (abs_val h).symm
    rw [habs, abs_of_nonneg hrange.1]
    exact hrange.2.trans_lt (lt_of_lt_of_le (by norm_num) (zpow_le_zpow_right₀ one_le_two (by decide : (7 : Int) ≤ 1024)))
  obtain ⟨hfinite, hval, hsign⟩ := binary64Value_bits (hh ▸ fits_compHf _ _ _) hlt
  refine ⟨h.lowWord, h.highWord, hi.exec_results hs hp hdone, ?_⟩
  rw [hword, hval, ← hsigned]
  exact ⟨hfinite, rfl, hsign, hrange⟩

end Sys2Proof.Machine
end

section
/-! O37, O38, O39, O41. How a channel-B command ends after the trace of its slots, and the commands of a single slot. -/

namespace Sys2Proof.Machine

/-! ### Traces of slots

A trace made of slots, one for each element of a list, adds up what each slot does. -/

theorem levels_flatMap {α : Type} (l : List α) (f : α → List EventB) :
    levels (l.flatMap f) = l.flatMap fun x => levels (f x) := by
  induction l with
  | nil => rfl
  | cons x l ih => simp only [List.flatMap_cons, levels_append, ih]

theorem lineTime_flatMap {α : Type} (l : List α) {f : α → List EventB} {t : Nat} (hf : ∀ x, lineTime (f x) = t) :
    lineTime (l.flatMap f) = l.length * t := by
  induction l with
  | nil => rw [List.length_nil, Nat.zero_mul]; rfl
  | cons x l ih => rw [List.flatMap_cons, lineTime_append, hf, ih, List.length_cons, Nat.succ_mul, Nat.add_comm]

/-- Slots that each leave the line released keep it so. -/
theorem driveFrom_flatMap {α : Type} (l : List α) {f : α → List EventB}
    (hf : ∀ x, driveFrom .released (f x) = .released) : driveFrom .released (l.flatMap f) = .released := by
  induction l with
  | nil => rfl
  | cons x l ih => rw [List.flatMap_cons, driveFrom_append, hf, ih]

theorem length_bitsOfByte (v : Byte) : (bitsOfByte v).length = 8 := by
  rw [bitsOfByte, List.length_map, List.length_range]

theorem levels_readByteTrace (v : Byte) : levels (readByteTrace v) = bitsOfByte v :=
  (levels_flatMap _ _).trans (List.flatMap_singleton' _)

theorem lineTime_readByteTrace (v : Byte) : lineTime (readByteTrace v) = 480 := by
  rw [readByteTrace, lineTime_flatMap (t := 60) _ fun _ => rfl, length_bitsOfByte]

theorem driveFrom_readByteTrace (d : LineDrive) (v : Byte) : driveFrom d (readByteTrace v) = .released := rfl

theorem length_readByteTrace (v : Byte) : (readByteTrace v).length = 32 := rfl

/-- The byte of the levels that a byte's bits are (R404). -/
theorem bytesOfLevels_bitsOfByte (v : Byte) (rest : List Bool) :
    bytesOfLevels (bitsOfByte v ++ rest) = v :: bytesOfLevels rest := by
  have hbyte : byteOfLevels (v.getLsbD 0) (v.getLsbD 1) (v.getLsbD 2) (v.getLsbD 3) (v.getLsbD 4) (v.getLsbD 5)
      (v.getLsbD 6) (v.getLsbD 7) = v := by
    refine BitVec.eq_of_getLsbD_eq fun k hk => ?_
    simp only [byteOfLevels, BitVec.getLsbD_append, BitVec.getLsbD_ofBool]
    interval_cases k <;> simp
  exact congrArg (· :: bytesOfLevels rest) hbyte

/-! ### How a command ends -/

section
variable {i : Instr} {next : ExecB → ActB} {s : State} {e : ExecB} {tr : List EventB} {rest : List Bool}

/-- The step that completes a command, after the trace of its slots, which left the line released. -/
theorem IsStepB.exec_done_sentB (hi : IsStepB i next) {c : CommitB} (hn : next e = .done c)
    (hdrive : driveFrom s.b.drive tr = .released) :
    exec i (s.sentB e tr rest) = .next (s.endB
      { s.b.regs with
        done := true, err := .ok, res := s.b.regs.res.commit c.res
        valid := if c.sp.isSome then true else s.b.regs.valid }
      (c.sp.getD s.b.sp) (s.b.time + lineTime tr) (s.b.trace ++ tr) rest) := by
  rw [hi, stepB_exec (e := e) next rfl, hn]
  simp [ActB.perform, completeB, State.sentB, State.endB, hdrive]

/-- The step that ends a command with a code, which commits nothing (R608). -/
theorem IsStepB.exec_raise_sentB (hi : IsStepB i next) {code : ErrCode} (hn : next e = .raise code)
    (hdrive : driveFrom s.b.drive tr = .released) :
    exec i (s.sentB e tr rest) = .next (s.endB { s.b.regs with done := true, err := code } s.b.sp
      (s.b.time + lineTime tr) (s.b.trace ++ tr) rest) := by
  rw [hi, stepB_exec (e := e) next rfl, hn]
  simp [ActB.perform, raiseB, State.sentB, State.endB, hdrive]

/-- The first line of a command, from its acceptance. -/
theorem IsStepB.execTimes_first_line (hi : IsStepB i next) {w : Word} {args : Quad} {n : Nat}
    (hn : tr.length = n + 1) (hs : s.b.seq = .exec ⟨w, args, ⟨0, 0⟩, []⟩)
    (hsends : SendsLine next ⟨w, args, ⟨0, 0⟩, []⟩ (tr.map EventB.prim)) (howl : s.owline = levels tr ++ rest) :
    execTimes (n + 1) i s = .next (s.sentB ⟨w, args, ⟨1, 0⟩, levels tr⟩ tr rest) :=
  hi.execTimes_line hn hs rfl hsends howl

end

/-- Settles O37: one reset slot, then the completion with its presence. -/
theorem owrstCompletes : Obligations.OwrstCompletes := by
  intro s w args x rest hs howl
  have hi : IsStepB .bOwrst owrstNext := fun _ => rfl
  have hslot := hi.execTimes_first_line (tr := resetTrace x) (n := 3) rfl hs (fun _ _ _ _ => rfl) howl
  have hdone : owrstNext ⟨w, args, ⟨1, 0⟩, [x]⟩ = .done { res := { r0 := some (if x then 0 else 1) } } := by
    cases x <;> rfl
  exact ⟨_, hslot, hi.exec_done_sentB hdone rfl⟩

/-- Settles O38: one write slot, or one read slot, then the completion. -/
theorem bitCommandsComplete : Obligations.BitCommandsComplete := by
  refine ⟨fun s w args hs => ?write, fun s w args x rest hs howl => ?read⟩
  case write =>
    have hi : IsStepB .bOwwbit owwbitNext := fun _ => rfl
    obtain ⟨bit, hbit⟩ : ∃ bit, args.r0.getLsbD 0 = bit := ⟨_, rfl⟩
    have hslot := hi.execTimes_first_line (tr := writeBitTrace bit) (n := 1) (rest := s.owline)
      (length_writeBitTrace bit) hs
      (fun _ _ _ _ => by rw [map_prim_writeBitTrace, ← hbit]; rfl)
      (by rw [levels_writeBitTrace, List.nil_append])
    have hend := hi.exec_done_sentB (s := s) (e := ⟨w, args, ⟨1, 0⟩, levels (writeBitTrace bit)⟩) (rest := s.owline)
      rfl (driveFrom_writeBitTrace _ bit)
    rw [lineTime_writeBitTrace] at hend
    rw [hbit]
    exact ⟨_, hslot, hend⟩
  case read =>
    have hi : IsStepB .bOwrbit owrbitNext := fun _ => rfl
    have hslot := hi.execTimes_first_line (tr := readBitTrace x) (n := 3) rfl hs (fun _ _ _ _ => rfl) howl
    have hdone : owrbitNext ⟨w, args, ⟨1, 0⟩, [x]⟩ = .done { res := { r0 := some (if x then 1 else 0) } } := by
      cases x <;> rfl
    exact ⟨_, hslot, hi.exec_done_sentB hdone rfl⟩

/-- Settles O39: eight write slots, or eight read slots, then the completion. -/
theorem byteCommandsComplete : Obligations.ByteCommandsComplete := by
  refine ⟨fun s w args hs => ?write, fun s w args v rest hs howl => ?read⟩
  case write =>
    have hi : IsStepB .bOwwbyte owwbyteNext := fun _ => rfl
    have hslots := hi.execTimes_byte hs rfl (v := argByte args 0) fun _ _ _ _ => rfl
    have hend := hi.exec_done_sentB (s := s) (e := ⟨w, args, ⟨1, 0⟩, []⟩) (rest := s.owline) rfl
      (driveFrom_writeByteTrace _ (argByte args 0))
    rw [lineTime_writeByteTrace] at hend
    exact ⟨_, hslots, hend⟩
  case read =>
    have hi : IsStepB .bOwrbyte owrbyteNext := fun _ => rfl
    have hslots := hi.execTimes_first_line (tr := readByteTrace v) (n := 31) (length_readByteTrace v) hs
      (fun _ _ _ _ => rfl) (by rwa [levels_readByteTrace])
    have hbyte : (bytesOfLevels (bitsOfByte v)).getD 0 0 = v := by
      rw [← List.append_nil (bitsOfByte v), bytesOfLevels_bitsOfByte]
      rfl
    have hdone : owrbyteNext ⟨w, args, ⟨1, 0⟩, levels (readByteTrace v)⟩ =
        .done { res := { r0 := some (zext32 v) } } := by
      rw [levels_readByteTrace, owrbyteNext, hbyte]
    have hend := hi.exec_done_sentB (s := s) (rest := rest) hdone (driveFrom_readByteTrace _ v)
    rw [lineTime_readByteTrace] at hend
    exact ⟨_, hslots, hend⟩

/-- Settles O41: each of the three begins with the reset slot and looks at its presence next. -/
theorem absentDeviceEndsCommand : Obligations.AbsentDeviceEndsCommand := by
  intro i s w args rest hmem hs howl
  have hends {next : ExecB → ActB} (hi : IsStepB i next)
      (hsends : SendsLine next ⟨w, args, ⟨0, 0⟩, []⟩ resetOps)
      (hraise : next ⟨w, args, ⟨1, 0⟩, [true]⟩ = .raise .deviceNotFound) :
      ∃ s1, execTimes 4 i s = .next s1 ∧
        exec i s1 = .next (s.endB { s.b.regs with done := true, err := .deviceNotFound } s.b.sp (s.b.time + 960)
          (s.b.trace ++ resetTrace true) rest) :=
    ⟨_, hi.execTimes_first_line (tr := resetTrace true) (n := 3) rfl hs hsends howl, hi.exec_raise_sentB hraise rfl⟩
  simp only [List.mem_cons, List.not_mem_nil, or_false] at hmem
  rcases hmem with rfl | rfl | rfl
  · exact hends (next := owinitNext) (fun _ => rfl) (fun _ _ _ _ => rfl) rfl
  · exact hends (next := owconvNext) (fun _ => rfl) (fun _ _ _ _ => rfl) rfl
  · exact hends (next := owrspNext) (fun _ => rfl) (fun _ _ _ _ => rfl) rfl

end Sys2Proof.Machine
end

section
/-! O42, O43. How a command addresses the device. `OWCONV`: its polls, one by one (R460, R461). -/

namespace Sys2Proof.Machine

/-- The trace that addresses the device: the reset slot with its presence pulse, skip-ROM, and the command's own byte
(R460, R470). -/
def addressTrace (v : Byte) : List EventB := resetTrace false ++ writeByteTrace 0xCC ++ writeByteTrace v

theorem driveFrom_addressTrace (d : LineDrive) (v : Byte) : driveFrom d (addressTrace v) = .released := by
  rw [addressTrace, driveFrom_append, driveFrom_writeByteTrace]

theorem lineTime_addressTrace (v : Byte) : lineTime (addressTrace v) = 2240 := by
  simp only [addressTrace, lineTime_append, lineTime_writeByteTrace]
  rfl

theorem levels_addressTrace (v : Byte) : levels (addressTrace v) = [false] := by
  simp only [addressTrace, levels_append, levels_writeByteTrace]
  rfl

section
variable {i : Instr} {next : ExecB → ActB} {s : State} {e : ExecB} {rest : List Bool}

/-- One primitive of a line, after a trace. -/
theorem IsStepB.execTimes_sentB_event (hi : IsStepB i next) {ops : List PrimB} {tr : List EventB} (ev : EventB)
    (hn : (next e).ops = some ops) (hop : ops[e.phase.sub]? = some ev.prim) (n : Nat) :
    execTimes (n + 1) i (s.sentB e tr (levels [ev] ++ rest)) =
      execTimes n i (s.sentB { e with phase := e.phase.advance ops.length, staged := e.staged ++ levels [ev] }
        (tr ++ [ev]) rest) := by
  refine execTimes_succ n i _ _ ((hi.exec_event rfl hn ev hop rfl).trans ?_)
  rw [sentB_sentB]

/-- A part of a line that stops short of its end, after a trace. The command need go on with the line only up to
there. -/
theorem IsStepB.execTimes_sentB_part (hi : IsStepB i next) {ops more : List PrimB} {tr : List EventB}
    (part : List EventB)
    (hsends : ∀ sub staged, sub < e.phase.sub + part.length → e.staged <+: staged →
      (next { e with phase := ⟨e.phase.line, sub⟩, staged := staged }).ops = some ops)
    (hops : ops.drop e.phase.sub = part.map EventB.prim ++ more) (hmore : more ≠ []) (n : Nat) :
    execTimes (n + part.length) i (s.sentB e tr (levels part ++ rest)) =
      execTimes n i (s.sentB
        { e with phase := ⟨e.phase.line, e.phase.sub + part.length⟩, staged := e.staged ++ levels part }
        (tr ++ part) rest) := by
  induction part generalizing e tr with
  | nil => simp [levels]
  | cons ev part ih =>
    have hlevels : levels (ev :: part) = levels [ev] ++ levels part := levels_append [ev] part
    have hop : ops[e.phase.sub]? = some ev.prim := by
      rw [← List.head?_drop, hops, List.map_cons, List.cons_append, List.head?_cons]
    have hnot_last : e.phase.sub + 1 < ops.length := by
      have hlen := congrArg List.length hops
      have hpos := List.length_pos_of_ne_nil hmore
      simp only [List.length_drop, List.length_append, List.length_map, List.length_cons] at hlen
      omega
    rw [List.length_cons] at hsends
    have hstep := hi.execTimes_sentB_event (s := s) (rest := levels part ++ rest) (tr := tr) ev
      (hsends e.phase.sub e.staged (by omega) ⟨[], List.append_nil _⟩) hop (n + part.length)
    have hrest := ih (e := ⟨e.op, e.args, ⟨e.phase.line, e.phase.sub + 1⟩, e.staged ++ levels [ev]⟩) (tr := tr ++ [ev])
      (fun sub staged hlt hst => hsends sub staged (by simp only at hlt; omega) (List.IsPrefix.trans ⟨_, rfl⟩ hst))
      (by rw [← List.drop_drop, hops]; rfl)
    rw [PhaseB.advance, if_pos hnot_last] at hstep
    rw [hlevels, List.append_assoc, List.length_cons]
    refine hstep.trans (hrest.trans ?_)
    simp only [List.append_assoc, List.singleton_append, Nat.add_assoc, Nat.add_comm 1]

/-- A line that sends a single-wire command byte, whatever has been sampled since. -/
theorem sendsLine_of_bus {w : Word} {args : Quad} {line : Nat} {staged : List Bool} {v : Byte}
    (h : ∀ sub sampled, next ⟨w, args, ⟨line, sub⟩, staged ++ sampled⟩ = .bus v) :
    SendsLine next ⟨w, args, ⟨line, 0⟩, staged⟩ (writeByteOps v) := by
  rintro sub _ _ ⟨sampled, rfl⟩
  exact congrArg ActB.ops (h sub sampled)

/-- A command that addresses the device begins with the reset slot and skip-ROM, and then sends its own byte `v`; a
presence pulse lets it (R460, R470). -/
theorem IsStepB.execTimes_address (hi : IsStepB i next) {w : Word} {args : Quad} {v : Byte}
    (hreset : SendsLine next ⟨w, args, ⟨0, 0⟩, []⟩ resetOps)
    (hskip : ∀ sub sampled, next ⟨w, args, ⟨1, sub⟩, false :: sampled⟩ = .bus 0xCC)
    (hbyte : ∀ sub sampled, next ⟨w, args, ⟨2, sub⟩, false :: sampled⟩ = .bus v)
    (hs : s.b.seq = .exec ⟨w, args, ⟨0, 0⟩, []⟩) (howl : s.owline = false :: rest) (n : Nat) :
    execTimes (36 + n) i s = execTimes n i (s.sentB ⟨w, args, ⟨3, 0⟩, [false]⟩ (addressTrace v) rest) := by
  have hslot := hi.execTimes_first_line (tr := resetTrace false) (n := 3) rfl hs hreset howl
  calc execTimes (36 + n) i s = execTimes (4 + (16 + (16 + n))) i s := by congr 1; omega
    _ = _ := execTimes_add 4 _ i _ _ hslot
    _ = _ := hi.execTimes_sentB_byte rfl (sendsLine_of_bus hskip) _
    _ = _ := hi.execTimes_sentB_byte rfl (sendsLine_of_bus hbyte) n

end

theorem isStepB_owconv : IsStepB .bOwconv owconvNext := fun _ => rfl

section
variable {s : State} {w : Word} {args : Quad} {k sub : Nat} {staged rest : List Bool} {tr : List EventB}

/-- A poll goes on with its slot, until the slot has sampled a 1 (R460). -/
theorem ops_owconvNext_poll (hk : k < 750) (hgoes : sub = 4 → lastLevel (false :: staged) = false) :
    (owconvNext ⟨w, args, ⟨k + 3, sub⟩, false :: staged⟩).ops = some pollOps := by
  have hend : ¬(decide (sub = 4) && lastLevel (false :: staged)) = true := by
    rw [Bool.and_eq_true, decide_eq_true_eq]
    exact fun ⟨hsub, hlast⟩ => absurd (hlast.symm.trans (hgoes hsub)) (by decide)
  have hnext : owconvNext ⟨w, args, ⟨k + 3, sub⟩, false :: staged⟩ = .slot pollOps :=
    (if_pos hk).trans (if_neg hend)
  rw [hnext]
  rfl

theorem lastLevel_concat (x : Bool) : lastLevel (false :: (staged ++ [x])) = x := by
  rw [lastLevel, ← List.cons_append, List.getLast?_concat]
  cases x <;> rfl

/-- The read slot of a poll. -/
theorem execTimes_poll_slot (hk : k < 750) (x : Bool) (n : Nat) :
    execTimes (n + 4) .bOwconv (s.sentB ⟨w, args, ⟨k + 3, 0⟩, false :: staged⟩ tr (x :: rest)) =
      execTimes n .bOwconv (s.sentB ⟨w, args, ⟨k + 3, 4⟩, false :: staged ++ [x]⟩ (tr ++ readBitTrace x) rest) := by
  refine isStepB_owconv.execTimes_sentB_part (e := ⟨w, args, ⟨k + 3, 0⟩, false :: staged⟩) (more := [.wait 1000])
    (readBitTrace x) ?sends rfl nofun n
  rintro sub _ hsub ⟨sampled, rfl⟩
  have hslot : sub < 4 := hsub
  exact ops_owconvNext_poll (staged := staged ++ sampled) hk fun h => absurd h hslot.ne

/-- A poll that reads 0 is followed by its delay and the next line. -/
theorem execTimes_busy_poll (hk : k < 750) (n : Nat) :
    execTimes (n + 5) .bOwconv (s.sentB ⟨w, args, ⟨k + 3, 0⟩, false :: staged⟩ tr (false :: rest)) =
      execTimes n .bOwconv
        (s.sentB ⟨w, args, ⟨k + 4, 0⟩, false :: (staged ++ [false])⟩ (tr ++ busyPollTrace) rest) := by
  have hslot := execTimes_poll_slot (s := s) (w := w) (args := args) (staged := staged) (rest := rest) (tr := tr) hk
    false (n + 1)
  have hgoes : (owconvNext ⟨w, args, ⟨k + 3, 4⟩, false :: (staged ++ [false])⟩).ops = some pollOps :=
    ops_owconvNext_poll hk fun _ => lastLevel_concat false
  have hwait := isStepB_owconv.execTimes_sentB_event (s := s) (tr := tr ++ readBitTrace false) (rest := rest)
    (.wait 1000) hgoes rfl n
  refine hslot.trans (hwait.trans ?_)
  rw [List.append_assoc]
  simp [levels, pollOps, PhaseB.advance, busyPollTrace, readBitOps]

/-- Polls that read 0, one after the other. -/
theorem execTimes_busy_polls (hk : k ≤ 750) (n : Nat) :
    execTimes (n + 5 * k) .bOwconv
        (s.sentB ⟨w, args, ⟨3, 0⟩, [false]⟩ tr (List.replicate k false ++ rest)) =
      execTimes n .bOwconv (s.sentB ⟨w, args, ⟨k + 3, 0⟩, false :: List.replicate k false⟩
        (tr ++ (List.replicate k busyPollTrace).flatten) rest) := by
  induction k generalizing n rest with
  | zero => simp
  | succ k ih =>
    have hpolls := ih (rest := false :: rest) (by omega) (n + 5)
    have hpoll := execTimes_busy_poll (s := s) (w := w) (args := args) (staged := List.replicate k false) (rest := rest)
      (tr := tr ++ (List.replicate k busyPollTrace).flatten) (k := k) (by omega) n
    rw [show n + 5 * (k + 1) = n + 5 + 5 * k by omega, List.replicate_succ', List.replicate_succ',
      List.append_assoc, List.flatten_append, List.flatten_singleton, ← List.append_assoc tr]
    exact hpolls.trans hpoll

end

/-- The trace of an `OWCONV` up to its first poll that does not read 0. -/
def pollingTrace (k : Nat) : List EventB := addressTrace 0x44 ++ (List.replicate k busyPollTrace).flatten

theorem pollingTrace_eq (k : Nat) :
    pollingTrace k = addressTrace 0x44 ++ (List.replicate k false).flatMap fun _ => busyPollTrace := by
  simp [pollingTrace, List.flatMap]

theorem append_pollingTrace (tr : List EventB) (k : Nat) : tr ++ pollingTrace k = tr ++ resetTrace false ++
    writeByteTrace 0xCC ++ writeByteTrace 0x44 ++ (List.replicate k busyPollTrace).flatten := by
  simp only [pollingTrace, addressTrace, List.append_assoc]

theorem driveFrom_pollingTrace (d : LineDrive) (k : Nat) : driveFrom d (pollingTrace k) = .released := by
  rw [pollingTrace_eq, driveFrom_append, driveFrom_addressTrace]
  exact driveFrom_flatMap _ fun _ => rfl

/-- The slots that address the device, then the slot and the delay of each poll (R740). -/
theorem lineTime_pollingTrace (k : Nat) : lineTime (pollingTrace k) = 2240 + k * 1060 := by
  rw [pollingTrace_eq, lineTime_append, lineTime_addressTrace, lineTime_flatMap (t := 1060) _ fun _ => rfl,
    List.length_replicate]

theorem levels_pollingTrace (k : Nat) : levels (pollingTrace k) = false :: List.replicate k false := by
  rw [pollingTrace_eq, levels_append, levels_addressTrace, levels_flatMap]
  have hpoll : levels busyPollTrace = [false] := rfl
  rw [hpoll, ← List.map_eq_flatMap (f := fun _ => false), List.map_replicate, List.singleton_append]

/-- An `OWCONV` with a presence pulse, up to its first poll that does not read 0. -/
theorem execTimes_owconv {s : State} {w : Word} {args : Quad} {k : Nat} {rest : List Bool} (hk : k ≤ 750)
    (hs : s.b.seq = .exec ⟨w, args, ⟨0, 0⟩, []⟩) (howl : s.owline = false :: (List.replicate k false ++ rest))
    (n : Nat) :
    execTimes (n + 5 * k + 36) .bOwconv s = execTimes n .bOwconv
      (s.sentB ⟨w, args, ⟨k + 3, 0⟩, false :: List.replicate k false⟩ (pollingTrace k) rest) := by
  rw [Nat.add_comm]
  exact (isStepB_owconv.execTimes_address (fun _ _ _ _ => rfl) (fun _ _ => rfl) (fun _ _ => rfl) hs howl _).trans
    (execTimes_busy_polls hk n)

/-- Settles O42: the polls that read 0, then the read slot of the poll that reads 1. -/
theorem owconvEndsAtPoll : Obligations.OwconvEndsAtPoll := by
  intro s w args k rest hk hs howl
  have hpolls := execTimes_owconv hk.le hs howl 4
  have hslot := execTimes_poll_slot (s := s) (w := w) (args := args) (staged := List.replicate k false) (rest := rest)
    (tr := pollingTrace k) hk true 0
  have hdone : owconvNext ⟨w, args, ⟨k + 3, 4⟩, false :: List.replicate k false ++ [true]⟩ =
      .done { res := { r0 := some (BitVec.ofNat 32 (k + 1)) } } :=
    (if_pos hk).trans (if_pos (lastLevel_concat true))
  have hend := isStepB_owconv.exec_done_sentB (s := s) (rest := rest) (tr := pollingTrace k ++ readBitTrace true) hdone
    (by rw [driveFrom_append]; rfl)
  have htime : s.b.time + (2240 + k * 1060 + 60) = s.b.time + 1240 + 1060 * (k + 1) := by omega
  rw [lineTime_append, lineTime_pollingTrace, show lineTime (readBitTrace true) = 60 from rfl, htime,
    ← List.append_assoc, append_pollingTrace] at hend
  rw [show 40 + 5 * k = 4 + 5 * k + 36 by omega]
  exact ⟨_, hpolls.trans hslot, hend⟩

/-! ### The bound (R461) -/

theorem sampleCount_eq_length_levels (tr : List EventB) : sampleCount tr = (levels tr).length := by
  induction tr with
  | nil => rfl
  | cons ev tr ih => cases ev <;> simp [sampleCount, levels, ih]

theorem sampleCount_append (tr tr' : List EventB) : sampleCount (tr ++ tr') = sampleCount tr + sampleCount tr' := by
  simp only [sampleCount_eq_length_levels, levels_append, List.length_append]

theorem sampleCount_pollingTrace (k : Nat) : sampleCount (pollingTrace k) = k + 1 := by
  rw [sampleCount_eq_length_levels, levels_pollingTrace, List.length_cons, List.length_replicate]

/-- The first `n` levels are all 0, or one of them is the first 1. -/
theorem replicate_false_or_first_true (n : Nat) (l : List Bool) (hl : n ≤ l.length) :
    (∃ rest, l = List.replicate n false ++ rest) ∨ ∃ k rest, k < n ∧ l = List.replicate k false ++ true :: rest := by
  induction n generalizing l with
  | zero => exact .inl ⟨l, rfl⟩
  | succ n ih =>
    cases l with
    | nil => cases hl
    | cons x l =>
      cases x with
      | true => exact .inr ⟨0, l, Nat.succ_pos n, rfl⟩
      | false =>
        rcases ih l (Nat.le_of_succ_le_succ hl) with ⟨rest, rfl⟩ | ⟨k, rest, hk, rfl⟩
        · exact .inl ⟨rest, rfl⟩
        · exact .inr ⟨k + 1, rest, Nat.succ_lt_succ hk, rfl⟩

/-- What the line can answer a reset slot and `n` polls: no presence, zeros only, or zeros up to a first 1. -/
theorem presence_and_polls_cases (n : Nat) {l : List Bool} (hl : n + 1 ≤ l.length) :
    (∃ rest, l = true :: rest) ∨ (∃ rest, l = false :: (List.replicate n false ++ rest)) ∨
    ∃ k rest, k < n ∧ l = false :: (List.replicate k false ++ true :: rest) := by
  cases l with
  | nil => cases hl
  | cons x l =>
    cases x with
    | true => exact .inl ⟨l, rfl⟩
    | false =>
      rcases replicate_false_or_first_true n l (Nat.le_of_succ_le_succ hl) with ⟨rest, rfl⟩ | ⟨k, rest, hk, rfl⟩
      · exact .inr (.inl ⟨rest, rfl⟩)
      · exact .inr (.inr ⟨k, rest, hk, rfl⟩)

theorem owconvNext_timeout (w : Word) (args : Quad) {k : Nat} (hk : ¬ k < 750) (sub : Nat) (staged : List Bool) :
    owconvNext ⟨w, args, ⟨k + 3, sub⟩, false :: staged⟩ = .raise .conversionTimeout :=
  if_neg hk

/-- The run of an `OWCONV` whose 750 polls read 0 (R461). -/
theorem owconv_times_out {s : State} {w : Word} {args : Quad} {rest : List Bool}
    (hs : s.b.seq = .exec ⟨w, args, ⟨0, 0⟩, []⟩) (howl : s.owline = false :: (List.replicate 750 false ++ rest)) :
    ∃ s1, execTimes 3786 .bOwconv s = .next s1 ∧
      exec .bOwconv s1 = .next (s.endB { s.b.regs with done := true, err := .conversionTimeout } s.b.sp
        (s.b.time + 797240) (s.b.trace ++ pollingTrace 750) rest) := by
  have hpolls := execTimes_owconv le_rfl hs howl 0
  have hend := isStepB_owconv.exec_raise_sentB (s := s) (rest := rest)
    (owconvNext_timeout w args (Nat.lt_irrefl 750) 0 (List.replicate 750 false)) (driveFrom_pollingTrace _ 750)
  rw [lineTime_pollingTrace] at hend
  exact ⟨_, hpolls, hend⟩

/-- Settles O43: an `OWCONV` ends with no presence pulse, at the first poll that reads 1, or after 750 polls. -/
theorem owconvBound : Obligations.OwconvBound := by
  refine ⟨fun s w args hs hlen => ?ends, fun s w args rest hs howl => ?timeout⟩
  case timeout =>
    rw [← append_pollingTrace]
    exact owconv_times_out hs howl
  case ends =>
    have hanswers := presence_and_polls_cases 750 hlen
    clear hlen
    rcases hanswers with ⟨rest, howl⟩ | ⟨rest, howl⟩ | ⟨k, rest, hk, howl⟩
    · obtain ⟨s1, hrun, hexec⟩ := absentDeviceEndsCommand .bOwconv s w args rest (by simp) hs howl
      refine ⟨4, s1, _, by decide, hrun, hexec, rfl, ?_, Nat.add_le_add_left (by decide) _⟩
      rw [endB_b_trace, sampleCount_append]
      exact Nat.le_add_right _ 750
    · obtain ⟨s1, hrun, hexec⟩ := owconv_times_out hs howl
      refine ⟨3786, s1, _, le_rfl, hrun, hexec, rfl, ?_, le_rfl⟩
      rw [endB_b_trace, sampleCount_append, sampleCount_pollingTrace, Nat.add_right_comm, Nat.add_assoc]
    · obtain ⟨s1, hrun, hexec⟩ := owconvEndsAtPoll s w args k rest hk hs howl
      refine ⟨40 + 5 * k, s1, _, by omega, hrun, hexec, rfl, ?_, ?_⟩
      · rw [endB_b_trace, ← append_pollingTrace, sampleCount_append, sampleCount_append, sampleCount_pollingTrace,
          show sampleCount (readBitTrace true) = 1 from rfl]
        omega
      · rw [endB_b_time]
        omega

end Sys2Proof.Machine
end

section
/-! O44, O45, O46. `OWRSP` and `OWDEC`: the nine bytes read one by one, and the temperature of two bytes (R470,
R481). -/

namespace Sys2Proof.Machine

/-! ### The temperature of two bytes (R481) -/

/-- A number of at most 53 bits is its own binary64. -/
theorem binary64Round_of_lt {m : Nat} {e : Int} (hm : m < 2 ^ 53) (he : -1074 ≤ e) :
    Reference.binary64Round (m * (2 : ℚ) ^ e) = m * (2 : ℚ) ^ e := by
  have hlength : bitLength m ≤ 53 := not_lt.mp fun h => absurd (two_pow_le_of_lt_bitLength h) (not_le.mpr hm)
  have hexact : F64.round false m e = ⟨false, m, e⟩ := if_pos (by unfold lastPlace; omega)
  rw [← round_eq_binary64Round false, hexact]

/-- The sixteenth of an integer of at most 53 bits is exact (R481); that of 0 is +0.0. -/
theorem signed_ofInt_div_sixteen {c : Int} (hc : c.natAbs < 2 ^ 53) :
    ((F64.ofInt c).div (F64.ofInt 16)).signed = ⟨decide (c < 0), (c : ℚ) / 16⟩ := by
  have hdiv : (c : ℚ) / 16 = signFactor (decide (c < 0)) * ((c.natAbs : ℚ) * (2 : ℚ) ^ (-4 : Int)) := by
    rw [← mul_assoc, signFactor_decide_mul_natAbs]
    norm_num [div_eq_mul_inv]
  have hround := binary64Round_of_lt hc (by decide : (-1074 : Int) ≤ -4)
  have hvalue : Reference.binary64Round ((c : ℚ) / 16) = (c : ℚ) / 16 := by
    rw [hdiv]
    by_cases hneg : c < 0
    · simp only [hneg, decide_true, signFactor, if_true, neg_one_mul, binary64Round_neg, hround]
    · simp only [hneg, decide_false, signFactor, Bool.false_eq_true, if_false, one_mul, hround]
  have hsign : (if (c : ℚ) / 16 = 0 then decide (c < 0) ^^ decide ((16 : Int) < 0) else decide ((c : ℚ) / 16 < 0)) =
      decide (c < 0) := by
    have hnum : (c : ℚ) / 16 < 0 ↔ c < 0 := by
      rw [div_lt_iff₀ (by norm_num), zero_mul, Int.cast_lt_zero]
    simp [hnum]
  rw [signed_div _ (by decide), signed_ofInt, signed_ofInt, Reference.Signed.div, Reference.Signed.rounded]
  simp only [Reference.Signed.ofInt, Int.cast_ofNat, hvalue, hsign]

theorem fits_div (x y : F64) : (x.div y).Fits := fits_round _ _ _

/-- A 16-bit sixteenth is far below the format's range. -/
theorem abs_sixteenth_lt {c : Int} (hlow : -2 ^ 15 ≤ c) (hhigh : c ≤ 2 ^ 15) :
    |(c : ℚ) / 16| < (2 : ℚ) ^ (1024 : Int) := by
  have habs : |(c : ℚ)| ≤ 2 ^ 15 := by exact_mod_cast abs_le.mpr ⟨hlow, hhigh⟩
  calc |(c : ℚ) / 16| ≤ |(c : ℚ)| := by
        rw [abs_div]
        exact div_le_self (abs_nonneg _) (by norm_num)
    _ ≤ (2 : ℚ) ^ (15 : Int) := by exact_mod_cast habs
    _ < (2 : ℚ) ^ (1024 : Int) := zpow_lt_zpow_right₀ one_lt_two (by decide)

/-- The bits of a 16-bit sixteenth stand for it, with its sign. -/
theorem binary64Value_sixteenth {c : Int} (hlow : -2 ^ 15 ≤ c) (hhigh : c ≤ 2 ^ 15) {x : F64}
    (hx : (F64.ofInt c).div (F64.ofInt 16) = x) :
    Reference.binary64Value x.bits = (c : ℚ) / 16 ∧ x.bits.getLsbD 63 = decide (c < 0) := by
  have hsigned := signed_ofInt_div_sixteen (c := c) (by omega)
  have hfits := fits_div (F64.ofInt c) (F64.ofInt 16)
  rw [hx] at hsigned hfits
  have hsign : x.neg = decide (c < 0) := congrArg Reference.Signed.neg hsigned
  have hnumber : x.signed.val = (c : ℚ) / 16 := congrArg Reference.Signed.val hsigned
  have hlt := abs_sixteenth_lt hlow hhigh
  rw [← hnumber, abs_val] at hlt
  obtain ⟨_, hval, hneg⟩ := binary64Value_bits hfits hlt
  exact ⟨hval.trans hnumber, hneg.trans hsign⟩

/-- The three result registers of two bytes: their signed code, and its exact sixteenth as a binary64. -/
theorem temperatureResults_eq (b0 b1 : Byte) :
    ∃ r0 r1 r2 : Word, temperatureResults b0 b1 = { r0 := some r0, r1 := some r1, r2 := some r2 } ∧
      r0.toInt = b1.toInt * 256 + b0.toNat ∧
      Reference.binary64Value (r2 ++ r1) = (r0.toInt : ℚ) / 16 ∧ (r2 ++ r1).getLsbD 63 = decide (r0.toInt < 0) := by
  obtain ⟨code, hcode⟩ : ∃ code : BitVec 16, b1 ++ b0 = code := ⟨_, rfl⟩
  obtain ⟨x, hx⟩ : ∃ x, (F64.ofInt code.toInt).div (F64.ofInt 16) = x := ⟨_, rfl⟩
  have hint : (sext32 code).toInt = code.toInt := BitVec.toInt_signExtend_of_le (by decide)
  have hbytes : code.toInt = b1.toInt * 256 + b0.toNat := by
    rw [← hcode, BitVec.toInt_append, if_neg (by decide)]
    omega
  have hword : x.highWord ++ x.lowWord = x.bits := BitVec.extractLsb'_append_extractLsb' (w := 32) (len := 32)
  have hvalue := binary64Value_sixteenth code.le_toInt code.toInt_lt.le hx
  refine ⟨sext32 code, x.lowWord, x.highWord, ?registers, hint.trans hbytes, ?number⟩
  case registers => simp only [temperatureResults, decodeT, hcode, hx]
  case number =>
    rw [hword, hint]
    exact hvalue

/-- Settles O46: the command's one step commits the temperature of its two bytes. -/
theorem owdecCompletes : Obligations.OwdecCompletes := by
  intro s e hs
  obtain ⟨r0, r1, r2, hres, htemp⟩ := temperatureResults_eq (argByte e.args 0) (argByte e.args 1)
  refine ⟨r0, r1, r2, (exec_of_nextB rfl hs rfl).trans ?_, htemp⟩
  rw [owdecNext, hres]
  rfl

/-! ### `OWRSP` (R470) -/

theorem bytesOfLevels_flatMap (d : List Byte) : bytesOfLevels (d.flatMap bitsOfByte) = d := by
  induction d with
  | nil => rfl
  | cons v d ih => rw [List.flatMap_cons, bytesOfLevels_bitsOfByte, ih]

theorem map_getD_range {d : List Byte} (hd : d.length = 9) : (List.range 9).map (fun k => d.getD k 0) = d := by
  refine List.ext_getElem (by simp [hd]) fun k _ hk => ?_
  simp [hk]

/-- The nine bytes an `OWRSP` checks are the ones it has read after the presence sample. -/
theorem scratchpadBytes_readBytes {d : List Byte} (hd : d.length = 9) :
    scratchpadBytes (false :: d.flatMap bitsOfByte) = d := by
  rw [scratchpadBytes, List.drop_one, List.tail_cons, bytesOfLevels_flatMap, map_getD_range hd]

theorem bytes_scratchpadOf_of_length {d : List Byte} (hd : d.length = 9) : (scratchpadOf d).bytes = d := by
  have hbytes := bytes_scratchpadOf fun k => d.getD k 0
  rwa [map_getD_range hd] at hbytes

theorem isStepB_owrsp : IsStepB .bOwrsp owrspNext := fun _ => rfl

section
variable {s : State} {w : Word} {args : Quad} {k : Nat} {staged rest : List Bool} {tr : List EventB}

theorem sendsLine_owrspNext_byte (hk : k < 9) :
    SendsLine owrspNext ⟨w, args, ⟨k + 3, 0⟩, false :: staged⟩ readByteOps := by
  rintro sub _ _ ⟨sampled, rfl⟩
  have hnext : owrspNext ⟨w, args, ⟨k + 3, sub⟩, false :: staged ++ sampled⟩ = .slot readByteOps := if_pos hk
  rw [hnext]
  rfl

/-- Bytes read one line after the other. -/
theorem execTimes_owrsp_bytes (d : List Byte) (hk : k + d.length ≤ 9) (n : Nat) :
    execTimes (n + 32 * d.length) .bOwrsp
        (s.sentB ⟨w, args, ⟨k + 3, 0⟩, false :: staged⟩ tr (d.flatMap bitsOfByte ++ rest)) =
      execTimes n .bOwrsp (s.sentB ⟨w, args, ⟨k + d.length + 3, 0⟩, false :: (staged ++ d.flatMap bitsOfByte)⟩
        (tr ++ d.flatMap readByteTrace) rest) := by
  induction d generalizing k staged tr with
  | nil => simp
  | cons v d ih =>
    rw [List.length_cons] at hk
    have hbyte := isStepB_owrsp.execTimes_line (n := 31) (tr := readByteTrace v)
      (s := s.sentB ⟨w, args, ⟨k + 3, 0⟩, false :: staged⟩ tr (bitsOfByte v ++ (d.flatMap bitsOfByte ++ rest)))
      (length_readByteTrace v) rfl rfl (sendsLine_owrspNext_byte (by omega)) (by rw [levels_readByteTrace]; rfl)
    rw [levels_readByteTrace, sentB_sentB] at hbyte
    have hbytes := ih (k := k + 1) (staged := staged ++ bitsOfByte v) (tr := tr ++ readByteTrace v) (by omega)
    rw [show n + 32 * (v :: d).length = 32 + (n + 32 * d.length) by rw [List.length_cons]; omega, List.flatMap_cons,
      List.flatMap_cons, List.append_assoc, execTimes_add 32 _ _ _ _ hbyte]
    refine hbytes.trans ?_
    rw [List.append_assoc, List.append_assoc, List.length_cons, Nat.add_right_comm k, Nat.add_assoc k]

end

/-- The trace of an `OWRSP` that reads the bytes `d`. -/
def readingTrace (d : List Byte) : List EventB := addressTrace 0xBE ++ d.flatMap readByteTrace

theorem append_readingTrace (tr : List EventB) (d : List Byte) : tr ++ readingTrace d =
    tr ++ resetTrace false ++ writeByteTrace 0xCC ++ writeByteTrace 0xBE ++ d.flatMap readByteTrace := by
  simp only [readingTrace, addressTrace, List.append_assoc]

theorem driveFrom_readingTrace (d : LineDrive) (bytes : List Byte) : driveFrom d (readingTrace bytes) = .released := by
  rw [readingTrace, driveFrom_append, driveFrom_addressTrace]
  exact driveFrom_flatMap _ (driveFrom_readByteTrace _)

theorem lineTime_readingTrace {d : List Byte} (hd : d.length = 9) : lineTime (readingTrace d) = 6560 := by
  rw [readingTrace, lineTime_append, lineTime_addressTrace, lineTime_flatMap _ lineTime_readByteTrace, hd]

section
variable {s : State} {w : Word} {args : Quad} {d : List Byte} {rest : List Bool}

/-- An `OWRSP` with a presence pulse, up to its ninth byte. -/
theorem execTimes_owrsp (hd : d.length = 9) (hs : s.b.seq = .exec ⟨w, args, ⟨0, 0⟩, []⟩)
    (howl : s.owline = false :: (d.flatMap bitsOfByte ++ rest)) :
    execTimes 324 .bOwrsp s =
      .next (s.sentB ⟨w, args, ⟨12, 0⟩, false :: d.flatMap bitsOfByte⟩ (readingTrace d) rest) := by
  have hbytes := execTimes_owrsp_bytes (s := s) (w := w) (args := args) (k := 0) (staged := []) (rest := rest)
    (tr := addressTrace 0xBE) d (by omega) 0
  rw [hd] at hbytes
  exact (isStepB_owrsp.execTimes_address (fun _ _ _ _ => rfl) (fun _ _ => rfl) (fun _ _ => rfl) hs howl 288).trans
    hbytes

/-- After the ninth byte the check of the nine decides (R470). -/
theorem owrspNext_check (hd : d.length = 9) :
    owrspNext ⟨w, args, ⟨12, 0⟩, false :: d.flatMap bitsOfByte⟩ =
      if validScratchpad d then
        .done { res := temperatureResults (d.getD 0 0) (d.getD 1 0), sp := some (scratchpadOf d) }
      else .raise .crcMismatch := by
  have hnext (staged : List Bool) : owrspNext ⟨w, args, ⟨12, 0⟩, false :: staged⟩ =
      if validScratchpad (scratchpadBytes (false :: staged)) then
        .done { res := temperatureResults ((scratchpadBytes (false :: staged)).getD 0 0)
                  ((scratchpadBytes (false :: staged)).getD 1 0)
                sp := some (scratchpadOf (scratchpadBytes (false :: staged))) }
      else .raise .crcMismatch := rfl
  rw [hnext, scratchpadBytes_readBytes hd]

end

/-- Settles O44: the completion after the ninth byte commits the bank and its temperature. -/
theorem owrspAccepts : Obligations.OwrspAccepts := by
  intro s w args d rest hs hd hcrc howl
  obtain ⟨r0, r1, r2, hres, hcode, hvalue⟩ := temperatureResults_eq (d.getD 0 0) (d.getD 1 0)
  have hdone := (owrspNext_check (w := w) (args := args) hd).trans (if_pos (beq_iff_eq.mpr hcrc))
  have hend := isStepB_owrsp.exec_done_sentB (s := s) (rest := rest) hdone (driveFrom_readingTrace _ d)
  rw [lineTime_readingTrace hd, append_readingTrace, hres] at hend
  exact ⟨_, r0, r1, r2, scratchpadOf d, execTimes_owrsp hd hs howl, hend, bytes_scratchpadOf_of_length hd, hcode,
    hvalue⟩

/-- Settles O45: the code raised after the ninth byte commits nothing. -/
theorem owrspRejects : Obligations.OwrspRejects := by
  intro s w args d rest hs hd hcrc howl
  have hraise := (owrspNext_check (w := w) (args := args) hd).trans (if_neg fun h => hcrc (beq_iff_eq.mp h))
  have hend := isStepB_owrsp.exec_raise_sentB (s := s) (rest := rest) hraise (driveFrom_readingTrace _ d)
  rw [lineTime_readingTrace hd, append_readingTrace] at hend
  exact ⟨_, execTimes_owrsp hd hs howl, hend⟩

end Sys2Proof.Machine
end

section
/-! O48, O50, O51. The CRC8 unit: how the register depends on the bytes, and the polynomial division it does (43_crc8.md
R500 to R502). -/

namespace Sys2Proof.Machine

/-! ### The loop, one bit at a time -/

/-- The byte `r` times the bit `b`. -/
def scale (b : Bool) (r : Byte) : Byte := if b then r else 0

@[simp] theorem getElem_scale (b : Bool) (r : Byte) (k : Nat) (hk : k < 8) : (scale b r)[k] = (b && r[k]) := by
  cases b <;> simp [scale]

theorem scale_xor (b c : Bool) (r : Byte) : scale (b ^^ c) r = scale b r ^^^ scale c r := by
  cases b <;> cases c <;> simp [scale]

/-- The register after the next bit sent, `b`: R500's test, with the bit in place of the byte it is taken from. -/
def crcShift (crc : Byte) (b : Bool) : Byte := crc >>> 1 ^^^ scale (crc.getLsbD 0 ^^ b) 0x8C

theorem crcBit_eq_crcShift (crc v : Byte) : crcBit crc v = crcShift crc (v.getLsbD 0) := by
  rw [crcBit_eq, BitVec.getLsbD_xor, crcShift, scale]
  split
  · rfl
  · exact BitVec.xor_zero.symm

theorem crcBits_eq_foldl (n : Nat) (crc v : Byte) :
    crcBits n crc v = ((List.range n).map fun k => v.getLsbD k).foldl crcShift crc := by
  induction n generalizing crc v with
  | zero => rfl
  | succ n ih =>
    rw [crcBits, ih, crcBit_eq_crcShift, List.range_succ_eq_map, List.map_cons, List.foldl_cons, List.map_map]
    simp [Function.comp_def, Nat.add_comm]

/-- CRC8 goes through the bits in the order sent. -/
theorem crc8_eq_foldl (d : List Byte) : crc8 d = (d.flatMap bitsOfByte).foldl crcShift 0 := by
  rw [List.foldl_flatMap]
  exact congrArg (fun f => List.foldl f 0 d) (funext₂ (crcBits_eq_foldl 8))

/-! ### The register determines what it was computed from -/

theorem getLsbD_seven_crcShift (crc : Byte) (b : Bool) : (crcShift crc b).getLsbD 7 = (crc.getLsbD 0 ^^ b) := by
  simp [crcShift]

theorem eq_of_ushiftRight_one_eq {c c' : Byte} (hlow : c.getLsbD 0 = c'.getLsbD 0) (hhigh : c >>> 1 = c' >>> 1) :
    c = c' := by
  refine BitVec.eq_of_getLsbD_eq fun k _ => ?_
  cases k with
  | zero => exact hlow
  | succ k => simpa [Nat.add_comm] using congrArg (fun r : Byte => r.getLsbD k) hhigh

/-- The top bit tells whether 0x8C was mixed in, hence the bit shifted out. -/
theorem crcShift_left_injective (b : Bool) : Function.Injective (crcShift · b) := by
  intro c c' h
  have htop := congrArg (fun r : Byte => r.getLsbD 7) h
  simp only [getLsbD_seven_crcShift] at htop
  refine eq_of_ushiftRight_one_eq (Bool.xor_left_inj.mp htop) ?_
  simp only [crcShift, htop] at h
  exact (BitVec.xor_left_inj _).mp h

theorem crcBits_left_injective (n : Nat) (v : Byte) : Function.Injective (crcBits n · v) := by
  induction n generalizing v with
  | zero => exact Function.injective_id
  | succ n ih =>
    intro c c' h
    have hbit := ih (v >>> 1) h
    rw [crcBit_eq_crcShift, crcBit_eq_crcShift] at hbit
    exact crcShift_left_injective _ hbit

theorem crcByte_left_injective (v : Byte) : Function.Injective (crcByte · v) := crcBits_left_injective 8 v

theorem crcBit_xor (crc v : Byte) : crcBit crc v ^^^ v >>> 1 = crcBit (crc ^^^ v) 0 := by
  simp only [crcBit, BitVec.ushiftRight_xor_distrib, BitVec.ofNat_eq_ofNat, BitVec.xor_zero]
  ac_rfl

/-- Only the sum of register and byte matters, but for the bits of the byte not yet shifted out. -/
theorem crcBits_xor (n : Nat) (crc v : Byte) : crcBits n crc v ^^^ v >>> n = crcBits n (crc ^^^ v) 0 := by
  induction n generalizing crc v with
  | zero => simp [crcBits]
  | succ n ih =>
    rw [crcBits, crcBits, Nat.add_comm n, BitVec.shiftRight_add, ih, crcBit_xor]
    rfl

theorem crcByte_eq_crcByte_xor (crc v : Byte) : crcByte crc v = crcByte (crc ^^^ v) 0 := by
  have hxor := crcBits_xor 8 crc v
  rwa [BitVec.ushiftRight_eq_zero (Nat.le_refl 8), BitVec.xor_zero] at hxor

theorem crcByte_right_injective (crc : Byte) : Function.Injective (crcByte crc) := by
  intro v v' h
  rw [crcByte_eq_crcByte_xor, crcByte_eq_crcByte_xor crc v'] at h
  exact (BitVec.xor_right_inj _).mp (crcByte_left_injective 0 h)

theorem crcByte_self (v : Byte) : crcByte v v = 0 := by
  rw [crcByte_eq_crcByte_xor, BitVec.xor_self]
  rfl

theorem crcByte_eq_zero_iff (crc v : Byte) : crcByte crc v = 0 ↔ crc = v := by
  rw [← crcByte_self v]
  exact (crcByte_left_injective v).eq_iff

theorem crcFrom_left_injective (d : List Byte) : Function.Injective (crcFrom · d) := by
  induction d with
  | nil => exact Function.injective_id
  | cons v d ih => exact ih.comp (crcByte_left_injective v)

/-- No change of a single byte goes unnoticed. -/
theorem crcFrom_set_eq_iff (crc : Byte) (d : List Byte) {i : Nat} (hi : i < d.length) (v : Byte) :
    crcFrom crc (d.set i v) = crcFrom crc d ↔ v = d.getD i 0 := by
  induction d generalizing crc i with
  | nil => simp at hi
  | cons u d ih =>
    cases i with
    | zero => exact (crcFrom_left_injective d).eq_iff.trans (crcByte_right_injective crc).eq_iff
    | succ i => exact ih (crcByte crc u) (Nat.lt_of_succ_lt_succ hi)

/-! ### Scratchpads (R501, R502) -/

theorem validScratchpad_iff (d : List Byte) : validScratchpad d = true ↔ crc8 (d.take 8) = d.getD 8 0 := beq_iff_eq

/-- The CRC8 of nine bytes takes the ninth into that of the first eight. -/
theorem crc8_of_length_nine {d : List Byte} (hd : d.length = 9) :
    crc8 d = crcByte (crc8 (d.take 8)) (d.getD 8 0) := by
  have hsplit : d = d.take 8 ++ [d.getD 8 0] := by
    rw [List.getD_eq_getElem d 0 (by omega), List.take_append_getElem, List.take_of_length_le (by omega)]
  conv_lhs => rw [hsplit]
  exact List.foldl_append

theorem crc8_take_eq_iff {d : List Byte} (hd : d.length = 9) : crc8 (d.take 8) = d.getD 8 0 ↔ crc8 d = 0 := by
  rw [crc8_of_length_nine hd, crcByte_eq_zero_iff]

theorem validScratchpad_iff_crc8_eq_zero {d : List Byte} (hd : d.length = 9) :
    validScratchpad d = true ↔ crc8 d = 0 :=
  (validScratchpad_iff d).trans (crc8_take_eq_iff hd)

/-- Settles O50: the ninth byte takes the register to 0 exactly when the register equals it. -/
theorem scratchpadValidIffCrcZero : Obligations.ScratchpadValidIffCrcZero :=
  fun d hd => ⟨validScratchpad_iff d, crc8_take_eq_iff hd⟩

theorem one_shiftLeft_ne_zero {k : Nat} (hk : k < 8) : (1 : Byte) <<< k ≠ 0 := by
  intro h
  have hbit := congrArg (fun r : Byte => r.getLsbD k) h
  simp [hk] at hbit

theorem crc8_flipBit_ne {d : List Byte} {k : Nat} (hk : k / 8 < d.length) : crc8 (flipBit k d) ≠ crc8 d := by
  intro h
  have hbyte := (crcFrom_set_eq_iff _ d hk _).mp h
  rw [← BitVec.xor_zero (x := d.getD (k / 8) 0), BitVec.xor_assoc, BitVec.zero_xor, BitVec.xor_right_inj] at hbyte
  exact one_shiftLeft_ne_zero (Nat.mod_lt k (by decide)) hbyte

/-- Settles O51: the flip changes one byte, so the CRC8 of the nine bytes is no longer 0. -/
theorem singleBitFlipsRejected : Obligations.SingleBitFlipsRejected := by
  refine ⟨fun d k hd hk hvalid => ?_, by decide +kernel⟩
  have hflip : (flipBit k d).length = 9 := List.length_set.trans hd
  have hzero := (validScratchpad_iff_crc8_eq_zero hd).mp hvalid
  rw [← Bool.not_eq_true, validScratchpad_iff_crc8_eq_zero hflip, ← hzero]
  exact crc8_flipBit_ne (by omega)

/-! ### Polynomials of degree below 8 over GF(2), a byte for each (R502)

Bit `k` is the coefficient of `x^k`, so that 0x31 is the remainder of `x^8`. -/

/-- The remainder of `r` times `x`. -/
def timesX (r : Byte) : Byte := r <<< 1 ^^^ scale r.msb 0x31

/-- The remainder after the next bit of the dividend. -/
def nextRemainder (r : Byte) (b : Bool) : Byte := timesX r ^^^ scale b 1

theorem shiftConcat_eq_xor (r : Byte) (b : Bool) : r.shiftConcat b = r <<< 1 ^^^ scale b 1 := by
  refine BitVec.eq_of_getLsbD_eq fun k hk => ?_
  cases k with
  | zero => simp
  | succ k => simp [hk]

theorem nextRemainder_eq_shiftConcat (r : Byte) (b : Bool) :
    nextRemainder r b = r.shiftConcat b ^^^ scale r.msb 0x31 := by
  rw [nextRemainder, timesX, shiftConcat_eq_xor]
  ac_rfl

/-- Subtracting the divisor leaves degree below 8. -/
theorem xor_divisor_eq {n : Nat} (hlow : 256 ≤ n) (hhigh : n < 512) : n ^^^ 0x131 = n % 256 ^^^ 0x31 := by
  have hdiv : (n ^^^ 0x131) / 2 ^ 8 = 0 := by
    rw [Nat.xor_div_two_pow, show n / 2 ^ 8 = 1 by omega]
    rfl
  rw [← Nat.mod_eq_of_lt (Nat.lt_of_div_eq_zero (by decide) hdiv), Nat.xor_mod_two_pow]

/-- The division of the reference, on bytes. -/
theorem divideBit_toNat (r : Byte) (b : Bool) : Reference.divideBit r.toNat b = (nextRemainder r b).toNat := by
  have hb := Bool.toNat_lt b
  have hr := r.isLt
  have hshift : (r.shiftConcat b).toNat = (2 * r.toNat + b.toNat) % 256 := by
    rw [BitVec.toNat_shiftConcat, Nat.shiftLeft_eq, Nat.mul_comm]
  have hmsb : r.msb = decide (256 ≤ 2 * r.toNat + b.toNat) := by
    rw [BitVec.msb_eq_decide]
    exact decide_eq_decide.mpr (by omega)
  rw [nextRemainder_eq_shiftConcat, BitVec.toNat_xor, hshift, hmsb, Reference.divideBit]
  split
  case isTrue h => simpa [scale, h] using xor_divisor_eq h (by omega)
  case isFalse h => simpa [scale, h] using (Nat.mod_eq_of_lt (not_le.mp h)).symm

/-- The remainder of `r` times `x^8`. -/
def timesXEight (r : Byte) : Byte := timesX^[8] r

theorem timesX_xor (r s : Byte) : timesX (r ^^^ s) = timesX r ^^^ timesX s := by
  simp only [timesX, BitVec.shiftLeft_xor_distrib, BitVec.msb_xor, scale_xor]
  ac_rfl

theorem timesX_iterate_xor (n : Nat) (r s : Byte) : timesX^[n] (r ^^^ s) = timesX^[n] r ^^^ timesX^[n] s := by
  induction n with
  | zero => rfl
  | succ n ih => simp only [Function.iterate_succ_apply', ih, timesX_xor]

theorem timesXEight_scale (b : Bool) : timesXEight (scale b 1) = scale b 0x31 := by
  cases b <;> decide

/-- A bit of the dividend, eight places up, meets the bit that goes out at the top. -/
theorem timesXEight_nextRemainder (r : Byte) (b : Bool) :
    timesXEight (nextRemainder r b) = timesXEight r <<< 1 ^^^ scale ((timesXEight r).msb ^^ b) 0x31 := by
  calc timesXEight (nextRemainder r b)
      = timesXEight (timesX r) ^^^ timesXEight (scale b 1) := timesX_iterate_xor 8 _ _
    _ = timesX (timesXEight r) ^^^ scale b 0x31 := by
      rw [timesXEight_scale]
      exact congrArg (· ^^^ _) (Function.Commute.iterate_self timesX 8 r)
    _ = timesXEight r <<< 1 ^^^ scale ((timesXEight r).msb ^^ b) 0x31 := by
      rw [timesX, BitVec.xor_assoc, scale_xor]

theorem crcRemainder_eq (bits : List Bool) :
    Reference.crcRemainder bits = (timesXEight (bits.foldl nextRemainder 0)).toNat := by
  have hfold (r : Byte) (l : List Bool) : l.foldl Reference.divideBit r.toNat = (l.foldl nextRemainder r).toNat :=
    List.foldl_hom BitVec.toNat divideBit_toNat
  have hzero (r : Byte) : nextRemainder r false = timesX r := BitVec.xor_zero
  calc Reference.crcRemainder bits
      = (List.replicate 8 false).foldl Reference.divideBit (bits.foldl Reference.divideBit (0 : Byte).toNat) :=
        List.foldl_append
    _ = ((List.replicate 8 false).foldl nextRemainder (bits.foldl nextRemainder 0)).toNat := by rw [hfold, hfold]
    _ = (timesXEight (bits.foldl nextRemainder 0)).toNat := by
      simp only [List.replicate, List.foldl, hzero, timesXEight, Function.iterate_succ_apply,
        Function.iterate_zero_apply]

/-! ### The register holds the remainder reflected -/

theorem reverse_xor (r s : Byte) : (r ^^^ s).reverse = r.reverse ^^^ s.reverse := by
  refine BitVec.eq_of_getLsbD_eq fun k _ => ?_
  simp only [BitVec.getLsbD_reverse, BitVec.getLsbD_xor, BitVec.getMsbD_xor]

theorem reverse_shiftLeft_one (r : Byte) : (r <<< 1).reverse = r.reverse >>> 1 := by
  refine BitVec.eq_of_getLsbD_eq fun k _ => ?_
  simp [BitVec.getLsbD_reverse, Nat.add_comm]

theorem reverse_scale (b : Bool) : (scale b 0x31).reverse = scale b 0x8C := by
  cases b <;> decide

theorem crcShift_reverse (r : Byte) (b : Bool) :
    crcShift r.reverse b = (r <<< 1 ^^^ scale (r.msb ^^ b) 0x31).reverse := by
  rw [reverse_xor, reverse_shiftLeft_one, reverse_scale, crcShift, BitVec.getLsbD_reverse]
  rfl

/-- The loop of R500 is the division of R502, the register being the remainder reflected. -/
theorem foldl_crcShift (bits : List Bool) :
    bits.foldl crcShift 0 = (timesXEight (bits.foldl nextRemainder 0)).reverse := by
  refine List.foldl_hom (fun r => (timesXEight r).reverse) (init := 0) fun r b => ?_
  rw [crcShift_reverse, timesXEight_nextRemainder]

/-- Settles O48: by `foldl_crcShift`, bit `k` of the register is bit `7 - k` of the remainder. -/
theorem crcEightIsPolynomialRemainder : Obligations.CrcEightIsPolynomialRemainder := by
  intro d k hk
  rw [crc8_eq_foldl, foldl_crcShift, crcRemainder_eq, BitVec.testBit_toNat, BitVec.getLsbD_reverse, BitVec.getMsbD,
    decide_eq_true hk, Bool.true_and]

end Sys2Proof.Machine
end

section
/-! O18, O28. A channel's turn always answers, and where it needs an answer of its oracle that has not come, it waits
(60_exceptions.md R608, R620; log 3). -/

namespace Sys2Proof.Machine

/-! ### What stops -/

/-- Only the host can be refused or fault: a channel's turn runs an instruction, or raises a code, or waits. -/
theorem exists_turn_next {ag : Agent} (h : ag ≠ .host) (s : State) : ∃ t, turn ag s = .next t := by
  obtain ⟨sA, sB, _, hA, hB, _⟩ := channelsCommute s
  cases ag with
  | host => exact absurd rfl h
  | cha => exact ⟨sA, hA⟩
  | chb => exact ⟨sB, hB⟩
  | reset => exact ⟨blockReset s, rfl⟩

theorem host_turn_of_step_stops {s : State} (h : ∀ t, step s ≠ .next t) : ∃ q, s.schedule = .host :: q := by
  rcases step_cases s with ⟨_, hstep⟩ | ⟨ag, q, hq, hstep⟩
  · exact absurd hstep (h s)
  · by_cases hag : ag = .host
    · exact ⟨q, hag ▸ hq⟩
    · obtain ⟨t, ht⟩ := exists_turn_next hag { s with schedule := q }
      exact absurd (hstep.trans ht) (h t)

/-- Settles O18: `exec_next` for the instructions; a step that stops is no channel's turn, no reset, and not the empty
schedule's. -/
theorem onlyHostTurnsStop : Obligations.OnlyHostTurnsStop := by
  refine ⟨exec_next, fun s r h => host_turn_of_step_stops fun t ht => ?_,
    fun s r h => host_turn_of_step_stops fun t ht => ?_⟩
  · cases h.symm.trans ht
  · cases h.symm.trans ht

/-! ### The transactions of channel A -/

/-- How many transactions a channel-A command makes when each of them is answered with success (R200 to R250). -/
def transactionCount : Instr → Nat
  | .aId | .aSrst | .aStat | .aRdraw => 1
  | .aLdcal => 3
  | .aCfg => 6
  | _ => 0

theorem transactionCount_le_six (i : Instr) : transactionCount i ≤ 6 := by
  unfold transactionCount
  split <;> decide

/-- A command that makes a transaction makes it in its place among its transactions. -/
theorem lt_transactionCount_of_nextA {i : Instr} {c : ChanA} {e : ExecA} {k : Nat} {act : ActA} {ans : I2cAnswer}
    {ev : EventA} (h : nextA i c e k = some act) (hev : act.event e ans = some ev) : k < transactionCount i := by
  by_contra hge
  have hle : transactionCount i ≤ k := Nat.le_of_not_lt hge
  obtain ⟨m, rfl⟩ := Nat.exists_eq_add_of_le' hle
  cases i with
  | aId | aSrst | aLdcal | aCfg | aStat | aRdraw =>
    cases h
    cases hev
  | aCompt | aCompp | aCompp64 | aComph | aComphf | aEst =>
    simp only [nextA, comptNext, comppNext, compp64Next, comphNext, comphfNext, estNext] at h
    split at h <;> cases h <;> cases hev
  | _ => cases h

/-- Up to there every action is a transaction, unless the command checks its gate or its operand first and raises. -/
theorem exists_transaction_of_lt {i : Instr} {k : Nat} (hk : k < transactionCount i) (c : ChanA) (e : ExecA)
    (ans : I2cAnswer) (hcal : i = .aLdcal → c.regs.valid = false) (hcfg : i = .aCfg → (configArg e.args).valid = true) :
    ∃ act ev, nextA i c e k = some act ∧ act.event e ans = some ev := by
  cases i with
  | aId | aSrst | aStat | aRdraw =>
    obtain rfl : k = 0 := Nat.lt_one_iff.mp hk
    exact ⟨_, _, rfl, rfl⟩
  | aLdcal =>
    have hlt : k < 3 := hk
    interval_cases k
    · exact ⟨_, _, by simp only [nextA, ldcalNext, hcal rfl]; rfl, rfl⟩
    all_goals exact ⟨_, _, rfl, rfl⟩
  | aCfg =>
    have hlt : k < 6 := hk
    interval_cases k
    · exact ⟨_, _, by simp only [nextA, cfgNext, hcfg rfl]; rfl, rfl⟩
    all_goals exact ⟨_, _, rfl, rfl⟩
  | _ => cases hk

/-- A transaction with no answer to take leaves the state as it is (log 3). -/
theorem ActA.perform_unanswered {act : ActA} {e : ExecA} {ans : I2cAnswer} {ev : EventA} {s : State} (k : Nat)
    (hev : act.event e ans = some ev) (hi2c : s.i2c = []) : act.perform e k s = s := by
  cases act with
  | read addr n => simp only [ActA.perform, memRead, hi2c]
  | write addr bytes => simp only [ActA.perform, memWrite, hi2c]
  | done | raise => cases hev

/-- A channel-A command in which no answer has raised a code does what `nextA` says of it. -/
theorem exec_of_nextA {i : Instr} (hi : i.place = .channel .a) {s : State} {e : ExecA} {k : Nat} {act : ActA}
    (hs : s.a.seq = .exec e) (hp : e.phase = .prim k) (h : nextA i s.a e k = some act) :
    exec i s = .next (act.perform e k s) := by
  obtain ⟨next, hexec, hnext⟩ := exec_nextA hi
  have hact : next s.a e k = act := Option.some.inj ((hnext s.a e k).symm.trans h)
  rw [hexec s, stepA_prim (next s.a) hs hp, hact]

theorem place_of_transactionCount_pos {i : Instr} (h : 0 < transactionCount i) : i.place = .channel .a := by
  cases i with
  | aId | aSrst | aLdcal | aCfg | aStat | aRdraw => rfl
  | _ => cases h

/-- What `nextB` speaks of is a channel-B command. -/
theorem place_of_nextB {i : Instr} {e : ExecB} {act : ActB} (h : nextB i e = some act) : i.place = .channel .b := by
  cases i with
  | bOwrst | bOwwbit | bOwrbit | bOwwbyte | bOwrbyte | bOwinit | bOwconv | bOwrsp | bOwdec | bCrc8 => rfl
  | _ => cases h

/-- A sample with no level to take leaves the state as it is (log 3). -/
theorem slotStep_unanswered {ops : List PrimB} {e : ExecB} {s : State} (hop : ops[e.phase.sub]? = some .sample)
    (howl : s.owline = []) : slotStep ops e s = s := by
  simp only [slotStep, hop, primB, howl]

/-- Settles O28: what each channel does there is a transaction, or a sample, and its oracle's queue is empty. -/
theorem unansweredBusWaits : Obligations.UnansweredBusWaits := by
  refine ⟨fun i n hmem s e k hs hp hk hcal hcfg hi2c => ?transaction, fun s e i ops hs hn hop howl => ?sample⟩
  case transaction =>
    have hcount : ∀ x ∈ [(Instr.aId, 1), (.aSrst, 1), (.aLdcal, 3), (.aCfg, 6), (.aStat, 1), (.aRdraw, 1)],
        x.2 = transactionCount x.1 := by decide
    obtain rfl : n = transactionCount i := hcount _ hmem
    obtain ⟨act, ev, hn, hev⟩ := exists_transaction_of_lt hk s.a e .fail hcal hcfg
    rw [exec_of_nextA (place_of_transactionCount_pos (Nat.zero_lt_of_lt hk)) hs hp hn, ActA.perform_unanswered k hev hi2c]
  case sample =>
    rw [exec_of_nextB (place_of_nextB hn) hs hn]
    exact congrArg _ (slotStep_unanswered hop howl)

end Sys2Proof.Machine
end

section
/-! O55. The codes a command can end with, by the opcode of its word, which stands in `LASTOP` while it runs
(60_exceptions.md R602; 10_state.md R41). -/

namespace Sys2Proof.Machine

/-! ### The codes a command can raise (R602) -/

theorem mem_codes_of_nextA {i : Instr} {c : ChanA} {e : ExecA} {k : Nat} {code : ErrCode}
    (h : nextA i c e k = some (.raise code)) : code ∈ Instr.codes i := by
  cases i with
  | aId | aSrst | aStat | aRdraw => rcases k with _ | k <;> cases h
  | aLdcal =>
    rcases k with _ | _ | _ | k
    · simp only [nextA, ldcalNext] at h
      split at h <;> cases h
      decide
    all_goals cases h
  | aCfg =>
    rcases k with _ | _ | _ | _ | _ | _ | k
    · simp only [nextA, cfgNext] at h
      split at h <;> cases h
      decide
    all_goals cases h
  | aCompt | aCompp | aCompp64 | aComph | aComphf | aEst =>
    simp only [nextA, comptNext, comppNext, compp64Next, comphNext, comphfNext, estNext] at h
    split at h <;> cases h
    decide
  | _ => cases h

theorem mem_codes_of_nextB {i : Instr} {e : ExecB} {code : ErrCode} (h : nextB i e = some (.raise code)) :
    code ∈ Instr.codes i := by
  cases i with
  | bOwrst | bOwwbit | bOwrbit | bOwwbyte | bOwrbyte =>
    simp only [nextB, owrstNext, owwbitNext, owrbitNext, owwbyteNext, owrbyteNext] at h
    split at h <;> cases h
  | bOwinit | bOwconv | bOwrsp =>
    simp only [nextB, owinitNext, owconvNext, owrspNext] at h
    repeat' split at h
    all_goals cases h
    all_goals decide
  | bCrc8 len =>
    simp only [nextB, crc8Next] at h
    split at h <;> cases h
    exact List.mem_singleton_self _
  | _ => cases h

/-- A command that makes transactions can end with the codes of the two ways in which one fails (R13). -/
theorem mem_codes_of_transactionCount_pos {i : Instr} (h : 0 < transactionCount i) :
    .deviceNotFound ∈ Instr.codes i ∧ .transportError ∈ Instr.codes i := by
  cases i with
  | aId | aSrst | aLdcal | aCfg | aStat | aRdraw => decide
  | _ => cases h

/-- An answer raises no other code. -/
theorem code_of_answered {e : ExecA} {k : Nat} {staged : List (List Byte)} {ans : I2cAnswer} {code : ErrCode}
    (h : (e.answered k staged ans).phase = .raised code) : code = .deviceNotFound ∨ code = .transportError := by
  cases ans with
  | ok => cases h
  | addrNack =>
    cases h
    exact .inl rfl
  | fail =>
    cases h
    exact .inr rfl

/-- The operand of `CRC8` does not change which codes an opcode's command can end with. -/
theorem codesOfOpcode_of_mem (ch : Channel) (len : Nat) :
    ∀ x ∈ opcodeMap ch len, codesOfOpcode ch x.1 = .ok :: .illegalCommand :: Instr.codes x.2 := by
  cases ch <;> simp [opcodeMap, opcodeMapA, opcodeMapB, codesOfOpcode, List.lookup, Instr.codes]

/-- What an accepted word's command can raise is listed under the word's opcode. -/
theorem mem_codesOfOpcode {ch : Channel} {w : Word} {i : Instr} {code : ErrCode} (hd : decode ch w = .ok i)
    (h : code ∈ Instr.codes i) : code ∈ codesOfOpcode ch (opField w) := by
  obtain ⟨_, hmem, _⟩ := (decode_eq_ok_iff_mem ch w i).mp hd
  rw [codesOfOpcode_of_mem ch _ _ hmem]
  exact List.mem_cons_of_mem _ (List.mem_cons_of_mem _ h)

theorem ok_mem_codesOfOpcode (ch : Channel) (op : Byte) : .ok ∈ codesOfOpcode ch op := List.mem_cons_self

theorem illegalCommand_mem_codesOfOpcode (ch : Channel) (op : Byte) : .illegalCommand ∈ codesOfOpcode ch op :=
  List.mem_cons_of_mem _ List.mem_cons_self

/-! ### O55: `ERR` fits `LASTOP` -/

/-- `CodesFitCommand` of channel A. -/
def ChanA.codesFit (c : ChanA) : Prop :=
  match c.seq with
  | .idle => c.regs.done = true → c.regs.err ∈ codesOfOpcode .a c.regs.lastop
  | .exec e => c.regs.lastop = opField e.op ∧ ∀ code, e.phase = .raised code → code ∈ codesOfOpcode .a c.regs.lastop

/-- `CodesFitCommand` of channel B. -/
def ChanB.codesFit (c : ChanB) : Prop :=
  match c.seq with
  | .idle => c.regs.done = true → c.regs.err ∈ codesOfOpcode .b c.regs.lastop
  | .exec e => c.regs.lastop = opField e.op

theorem ChanA.codesFit_exec {c : ChanA} {e : ExecA} (hs : c.seq = .exec e) :
    c.codesFit ↔ c.regs.lastop = opField e.op ∧
      ∀ code, e.phase = .raised code → code ∈ codesOfOpcode .a c.regs.lastop := by
  simp only [ChanA.codesFit, hs]

theorem ChanB.codesFit_exec {c : ChanB} {e : ExecB} (hs : c.seq = .exec e) :
    c.codesFit ↔ c.regs.lastop = opField e.op := by
  simp only [ChanB.codesFit, hs]

/-- After a transaction the command stands where an answer puts it, with the same word accepted. -/
theorem codesFit_answered {c : ChanA} {e : ExecA} {i : Instr} (hd : decode .a e.op = .ok i) (hi : 0 < transactionCount i)
    (hop : c.regs.lastop = opField e.op) {k : Nat} {staged : List (List Byte)} {ans : I2cAnswer} (trace : List EventA) :
    ChanA.codesFit { c with trace := trace, seq := .exec (e.answered k staged ans) } := by
  refine (ChanA.codesFit_exec rfl).mpr ⟨by rw [answered_op]; exact hop, fun code hcode => ?_⟩
  obtain ⟨hnack, hfail⟩ := mem_codes_of_transactionCount_pos hi
  show code ∈ codesOfOpcode .a c.regs.lastop
  rw [hop]
  rcases code_of_answered hcode with rfl | rfl
  · exact mem_codesOfOpcode hd hnack
  · exact mem_codesOfOpcode hd hfail

/-- Every way in which channel A's turn can end its command with a code. -/
theorem ChanA.raises.mem_codesOfOpcode {c : ChanA} {e : ExecA} {code : ErrCode} (hr : c.raises e code)
    (hs : c.seq = .exec e) (hfit : c.codesFit) : code ∈ codesOfOpcode .a c.regs.lastop := by
  obtain ⟨hop, hraised⟩ := (ChanA.codesFit_exec hs).mp hfit
  rcases hr with ⟨rfl, _⟩ | ⟨i, hd, hp | ⟨k, _, hn⟩⟩
  · exact illegalCommand_mem_codesOfOpcode _ _
  · exact hraised code hp
  · rw [hop]
    exact Machine.mem_codesOfOpcode hd (mem_codes_of_nextA hn)

theorem TurnA.keeps_codesFit {s : State} {ag : Agent} {c : ChanA} (h : TurnA s ag c) (hs : s.a.codesFit) :
    c.codesFit := by
  cases h with
  | kept | hostWrite => exact hs
  | reset => exact nofun
  | accept w rest hp hidle => exact ⟨rfl, nofun⟩
  | read e i k addr n he hd hk hn =>
    obtain ⟨hop, _⟩ := (ChanA.codesFit_exec he).mp hs
    rcases memRead_cases e k addr n s with ⟨_, h⟩ | ⟨ans, rest, _, h⟩ <;> rw [h]
    · exact hs
    · exact codesFit_answered hd (Nat.zero_lt_of_lt (lt_transactionCount_of_nextA (ans := ans) hn rfl)) hop _
  | write e i k addr bytes he hd hk hn =>
    obtain ⟨hop, _⟩ := (ChanA.codesFit_exec he).mp hs
    rcases memWrite_cases e k addr bytes s with ⟨_, h⟩ | ⟨ans, rest, _, h⟩ <;> rw [h]
    · exact hs
    · exact codesFit_answered hd (Nat.zero_lt_of_lt (lt_transactionCount_of_nextA (ans := ans) hn rfl)) hop _
  | complete => exact fun _ => ok_mem_codesOfOpcode _ _
  | raise e code he hr => exact fun _ => hr.mem_codesOfOpcode he hs

/-- Every way in which channel B's turn can end its command with a code. -/
theorem ExecB.raises.mem_codesOfOpcode {e : ExecB} {code : ErrCode} (hr : e.raises code) :
    code ∈ codesOfOpcode .b (opField e.op) := by
  rcases hr with ⟨rfl, _⟩ | ⟨i, hd, hn⟩
  · exact illegalCommand_mem_codesOfOpcode _ _
  · exact Machine.mem_codesOfOpcode hd (mem_codes_of_nextB hn)

/-- A primitive of channel B goes on with the word accepted. -/
theorem slotStep_op {s : State} {e : ExecB} (hs : s.b.seq = .exec e) (ops : List PrimB) :
    ∃ e', (slotStep ops e s).b.seq = .exec e' ∧ e'.op = e.op := by
  rcases slotStep_cases ops e s with ⟨p, _, h⟩ | ⟨_, h⟩ <;> rw [h]
  · rcases primB_cases p e (e.phase.advance ops.length) s with
      ⟨_, _, h⟩ | ⟨_, _, _, _, h⟩ | ⟨_, _, h⟩ | ⟨_, _, h⟩ | ⟨_, _, h⟩ <;> rw [h]
    · exact ⟨e, hs, rfl⟩
    · exact ⟨_, rfl, rfl⟩
    · exact ⟨_, rfl, rfl⟩
    · exact ⟨_, rfl, rfl⟩
    · exact ⟨_, rfl, rfl⟩
  · exact ⟨_, rfl, rfl⟩

theorem TurnB.keeps_codesFit {s : State} {ag : Agent} {c : ChanB} (h : TurnB s ag c) (hs : s.b.codesFit) :
    c.codesFit := by
  cases h with
  | kept | hostWrite => exact hs
  | reset => exact nofun
  | accept w rest hp hidle => exact rfl
  | slot e i act ops he =>
    obtain ⟨e', hseq, hop⟩ := slotStep_op he ops
    obtain ⟨_, _, _, _, heq⟩ := slotStep_b he ops
    rw [ChanB.codesFit_exec hseq, heq, hop]
    exact (ChanB.codesFit_exec he).mp hs
  | complete => exact fun _ => ok_mem_codesOfOpcode _ _
  | raise e code he hr =>
    have hcode := hr.mem_codesOfOpcode
    rw [← (ChanB.codesFit_exec he).mp hs] at hcode
    exact fun _ => hcode

/-- Settles O55: a command ends with a code that it raises itself, or that an answer to one of its transactions raised, or
with `ILLEGAL_COMMAND`; its word's opcode stands in `LASTOP` all the while. -/
theorem codesFitCommandKept : Obligations.CodesFitCommandKept :=
  keptByStep_of_sides (QA := ChanA.codesFit) (QB := ChanB.codesFit) (fun _ => Iff.rfl) TurnA.keeps_codesFit
    TurnB.keeps_codesFit

end Sys2Proof.Machine
end

section
/-! O60. What a running command still needs of its oracle and of its turns. On channel A both are counted by its
transactions. A command of channel B follows a script of primitives, line by line: every turn performs the next one, and
ends the command after the last, if not before (60_exceptions.md R620). -/

namespace Sys2Proof.Machine

/-! ### Turns of one agent, one after another -/

theorem run_succ {n : Nat} {s t : State} (h : step s = .next t) :
    Host.Core.run Sys2Proof.core (n + 1) s = Host.Core.run Sys2Proof.core n t := by
  have hcore : Sys2Proof.core.step s = .next t := h
  simp only [Host.Core.run, hcore]

/-- `need n` says that `n` turns of `ag` are enough: when each turn lowers it by one, `n` steps bring it to 0. -/
theorem exists_run_of_turns {ag : Agent} {need : Nat → State → Prop}
    (hturn : ∀ n s q, need (n + 1) s → ∃ t, turn ag { s with schedule := q } = .next t ∧ t.schedule = q ∧ need n t)
    (n : Nat) {s : State} {q : List Agent} (hneed : need n s) (hq : s.schedule = List.replicate n ag ++ q) :
    ∃ t, Host.Core.run Sys2Proof.core n s = .next t ∧ need 0 t := by
  induction n generalizing s with
  | zero => exact ⟨s, rfl, hneed⟩
  | succ n ih =>
    obtain ⟨t, ht, hqt, hneed'⟩ := hturn n s (List.replicate n ag ++ q) hneed
    have hstep : step s = .next t := by
      simp only [step, hq, List.replicate_succ, List.cons_append, ht]
    rw [run_succ hstep]
    exact ih hneed' hqt

/-! ### Channel A -/

/-- How many turns a channel-A command still takes at most: one for each transaction it may still make (six, for `CFG`),
and one that ends it. -/
def ExecA.turnsLeft (e : ExecA) : Nat :=
  match e.phase with
  | .raised _ => 1
  | .prim k => 6 - k + 1

/-- `n` turns of channel A are enough to end its command, and there is an answer for every turn but the last. -/
def EndsWithinA (n : Nat) (s : State) : Prop :=
  ∀ e, s.a.seq = .exec e → e.turnsLeft ≤ n ∧ e.turnsLeft ≤ s.i2c.length + 1

theorem endsWithinA_of_idle (n : Nat) {s : State} (hs : s.a.seq = .idle) : EndsWithinA n s := by
  intro e he
  cases hs.symm.trans he

theorem idle_of_endsWithinA_zero {s : State} (h : EndsWithinA 0 s) : s.a.seq = .idle := by
  cases hs : s.a.seq with
  | idle => rfl
  | exec e =>
    obtain ⟨hzero, _⟩ := h e hs
    have hpos : 0 < e.turnsLeft := by
      unfold ExecA.turnsLeft
      split <;> omega
    omega

/-- An answer takes the command on by one turn, or to the raise of a code, which is the last. -/
theorem turnsLeft_answered {k : Nat} (hk : k < 6) (e : ExecA) (staged : List (List Byte)) (ans : I2cAnswer) :
    (e.answered k staged ans).turnsLeft ≤ 6 - k := by
  cases ans with
  | ok => exact (show 6 - (k + 1) + 1 ≤ 6 - k by omega)
  | addrNack | fail => exact (show 1 ≤ 6 - k by omega)

/-- A transaction that is answered uses up the answer, and the command stands where the answer puts it. -/
theorem ActA.perform_answered {act : ActA} {e : ExecA} {any ans : I2cAnswer} {ev : EventA} {s : State}
    {rest : List I2cAnswer} (k : Nat) (hev : act.event e any = some ev) (hi2c : s.i2c = ans :: rest) :
    (act.perform e k s).i2c = rest ∧
      ∃ staged sized, (act.perform e k s).a.seq = .exec (e.answered k staged sized) := by
  cases act with
  | read addr n =>
    simp only [ActA.perform, memRead, hi2c]
    exact ⟨trivial, _, _, rfl⟩
  | write addr bytes =>
    simp only [ActA.perform, memWrite, hi2c]
    exact ⟨trivial, _, _, rfl⟩
  | done | raise => cases hev

/-- An action that is no transaction ends the command. -/
theorem ActA.perform_idle {act : ActA} {e : ExecA} {any : I2cAnswer} (k : Nat) (hev : act.event e any = none)
    (s : State) : (act.perform e k s).a.seq = .idle := by
  cases act with
  | read | write => cases hev
  | done | raise => rfl

theorem endsWithinA_perform {n k : Nat} {s : State} {e : ExecA} {i : Instr} {act : ActA} (hs : s.a.seq = .exec e)
    (hp : e.phase = .prim k) (hn : nextA i s.a e k = some act) (h : EndsWithinA (n + 1) s) :
    EndsWithinA n (act.perform e k s) := by
  obtain ⟨hturns, hanswers⟩ := h e hs
  simp only [ExecA.turnsLeft, hp] at hturns hanswers
  cases hev : act.event e .fail with
  | none => exact endsWithinA_of_idle n (ActA.perform_idle k hev s)
  | some ev =>
    have hk : k < 6 := (lt_transactionCount_of_nextA hn hev).trans_le (transactionCount_le_six i)
    cases hi2c : s.i2c with
    | nil =>
      rw [hi2c, List.length_nil] at hanswers
      omega
    | cons ans rest =>
      rw [hi2c, List.length_cons] at hanswers
      obtain ⟨hrest, staged, sized, hseq⟩ := ActA.perform_answered k hev hi2c
      intro e' he'
      cases hseq.symm.trans he'
      have hleft := turnsLeft_answered hk e staged sized
      rw [hrest]
      omega

/-- A turn of channel A does what its command does next, or ends it. -/
theorem turn_cha_endsWithinA {n : Nat} {s : State} (h : EndsWithinA (n + 1) s) :
    ∃ t, turn .cha s = .next t ∧ t.schedule = s.schedule ∧ EndsWithinA n t := by
  rcases turn_cha_cases s with ⟨hs, hturn⟩ | ⟨e, hs, ⟨r, _, hturn⟩ | ⟨i, hd, hturn⟩⟩
  · exact ⟨s, hturn, rfl, endsWithinA_of_idle n hs⟩
  · exact ⟨_, hturn, rfl, endsWithinA_of_idle n rfl⟩
  · obtain ⟨next, hexec, hnext⟩ := exec_nextA (place_of_decode hd)
    obtain ⟨_, _, _, hschedule⟩ := stepA_frame (next s.a) s
    refine ⟨_, hturn.trans (hexec s), hschedule, ?_⟩
    cases hp : e.phase with
    | raised code =>
      rw [stepA_raised (next s.a) hs hp]
      exact endsWithinA_of_idle n rfl
    | prim k =>
      rw [stepA_prim (next s.a) hs hp]
      exact endsWithinA_perform hs hp (hnext s.a e k) h

/-! ### The script of a channel-B command -/

/-- The slot sequences of a channel-B command, line by line of its pseudocode, when nothing ends it early (R410 to
R480). -/
def script (i : Instr) (args : Quad) : List (List PrimB) :=
  match i with
  | .bOwrst => [resetOps]
  | .bOwwbit => [writeBitOps (bitArg args)]
  | .bOwrbit => [readBitOps]
  | .bOwwbyte => [writeByteOps (argByte args 0)]
  | .bOwrbyte => [readByteOps]
  | .bOwinit => [resetOps, writeByteOps 0xCC, writeByteOps 0x4E, writeByteOps (argByte args 0),
      writeByteOps (argByte args 1), writeByteOps (argByte args 2)]
  | .bOwconv => [resetOps, writeByteOps 0xCC, writeByteOps 0x44] ++ List.replicate Config.convPollMax pollOps
  | .bOwrsp => [resetOps, writeByteOps 0xCC, writeByteOps 0xBE] ++ List.replicate 9 readByteOps
  | _ => []

/-- Whatever a command sends from a line, its script has it there. -/
theorem script_getElem?_of_nextB {i : Instr} {e : ExecB} {act : ActB} {ops : List PrimB} (h : nextB i e = some act)
    (hops : act.ops = some ops) : (script i e.args)[e.phase.line]? = some ops := by
  obtain ⟨op, args, ⟨line, sub⟩, staged⟩ := e
  cases i with
  | bOwrst | bOwwbit | bOwrbit | bOwwbyte | bOwrbyte =>
    rcases line with _ | n <;> cases h <;> cases hops
    rfl
  | bOwinit =>
    simp only [nextB, owinitNext] at h
    repeat' split at h
    all_goals cases h
    all_goals cases hops
    all_goals rfl
  | bOwconv =>
    simp only [nextB, owconvNext] at h
    repeat' split at h
    all_goals cases h
    all_goals cases hops
    · rfl
    · rfl
    · rfl
    next hk _ => exact List.getElem?_replicate_of_lt hk
  | bOwrsp =>
    simp only [nextB, owrspNext] at h
    repeat' split at h
    all_goals cases h
    all_goals cases hops
    · rfl
    · rfl
    · rfl
    next hk => exact List.getElem?_replicate_of_lt hk
  | bCrc8 len =>
    simp only [nextB, crc8Next] at h
    split at h <;> cases h <;> cases hops
  | bOwdec =>
    cases h
    cases hops
  | _ => cases h

theorem length_writeBitOps (bit : Bool) : (writeBitOps bit).length = 2 := by
  cases bit <;> rfl

theorem count_sample_writeBitOps (bit : Bool) : (writeBitOps bit).count .sample = 0 := by
  cases bit <;> rfl

theorem length_writeByteOps (v : Byte) : (writeByteOps v).length = 16 := by
  rw [← map_prim_writeByteTrace, List.length_map, length_writeByteTrace]

theorem count_sample_map_prim (tr : List EventB) : (tr.map EventB.prim).count .sample = (levels tr).length := by
  induction tr with
  | nil => rfl
  | cons ev tr ih => cases ev <;> simp [EventB.prim, levels, ih]

theorem count_sample_writeByteOps (v : Byte) : (writeByteOps v).count .sample = 0 := by
  rw [← map_prim_writeByteTrace, count_sample_map_prim, levels_writeByteTrace, List.length_nil]

/-- No line of a script is empty. -/
theorem pos_of_script_getElem? {i : Instr} {args : Quad} {line : Nat} {ops : List PrimB}
    (h : (script i args)[line]? = some ops) : 0 < ops.length := by
  have hall : ∀ ops ∈ script i args, 0 < ops.length := by
    cases i <;>
      simp [script, resetOps, readBitOps, readByteOps, pollOps, length_writeBitOps, length_writeByteOps]
  exact hall ops (List.mem_of_getElem? h)

/-- The longest script is that of `OWCONV` (R461, R620). -/
theorem length_script_le (i : Instr) (args : Quad) : (script i args).flatten.length ≤ 3786 := by
  cases i <;>
    simp [script, Config.convPollMax, resetOps, readBitOps, readByteOps, pollOps, length_writeBitOps,
      length_writeByteOps, -List.reduceReplicate]

theorem count_sample_script_le (i : Instr) (args : Quad) : (script i args).flatten.count .sample ≤ 751 := by
  cases i <;>
    simp [script, Config.convPollMax, resetOps, readBitOps, readByteOps, pollOps, List.count_flatten,
      count_sample_writeBitOps, count_sample_writeByteOps, -List.reduceReplicate]

/-! ### Channel B -/

/-- The primitives that are left of the script of the command `i` where it stands. -/
def ExecB.primsLeft (e : ExecB) (i : Instr) : List PrimB :=
  ((script i e.args).drop e.phase.line).flatten.drop e.phase.sub

/-- The position is at a primitive of its line, or past the last line. -/
def ExecB.InScript (e : ExecB) (i : Instr) : Prop :=
  ∀ ops, (script i e.args)[e.phase.line]? = some ops → e.phase.sub < ops.length

section
variable {e : ExecB} {i : Instr} {ops : List PrimB}

theorem inScript_of_sub_zero (hsub : e.phase.sub = 0) : e.InScript i := by
  intro ops h
  rw [hsub]
  exact pos_of_script_getElem? h

theorem inScript_advance (hops : (script i e.args)[e.phase.line]? = some ops) (staged : List Bool) :
    ExecB.InScript { e with phase := e.phase.advance ops.length, staged := staged } i := by
  by_cases hlt : e.phase.sub + 1 < ops.length
  · rw [PhaseB.advance, if_pos hlt]
    intro ops' hops'
    cases hops.symm.trans hops'
    exact hlt
  · rw [PhaseB.advance, if_neg hlt]
    exact inScript_of_sub_zero rfl

/-- The first primitive left is the one at the position, and after it the rest is left. -/
theorem primsLeft_eq_cons (hops : (script i e.args)[e.phase.line]? = some ops) (hsub : e.phase.sub < ops.length)
    (staged : List Bool) :
    e.primsLeft i = ops[e.phase.sub] ::
      ExecB.primsLeft { e with phase := e.phase.advance ops.length, staged := staged } i := by
  have hlines : (script i e.args).drop e.phase.line = ops :: (script i e.args).drop (e.phase.line + 1) := by
    obtain ⟨hline, rfl⟩ := List.getElem?_eq_some_iff.mp hops
    exact List.drop_eq_getElem_cons hline
  have hleft : e.primsLeft i = ops[e.phase.sub] ::
      (ops.drop (e.phase.sub + 1) ++ ((script i e.args).drop (e.phase.line + 1)).flatten) := by
    rw [ExecB.primsLeft, hlines, List.flatten_cons, List.drop_append_of_le_length hsub.le,
      List.drop_eq_getElem_cons hsub, List.cons_append]
  rw [hleft]
  congr 1
  by_cases hlt : e.phase.sub + 1 < ops.length
  · rw [PhaseB.advance, if_pos hlt, ExecB.primsLeft, hlines, List.flatten_cons,
      List.drop_append_of_le_length hlt.le]
  · rw [PhaseB.advance, if_neg hlt, List.drop_of_length_le (Nat.le_of_not_lt hlt)]
    rfl

end

/-- `n` turns of channel B are enough to end its command, and there is a level for every sample left. -/
def EndsWithinB (n : Nat) (s : State) : Prop :=
  ∀ e, s.b.seq = .exec e → 0 < n ∧ ∀ i, decode .b e.op = .ok i →
    e.InScript i ∧ (e.primsLeft i).length + 1 ≤ n ∧ (e.primsLeft i).count .sample ≤ s.owline.length

theorem endsWithinB_of_idle (n : Nat) {s : State} (hs : s.b.seq = .idle) : EndsWithinB n s := by
  intro e he
  cases hs.symm.trans he

theorem idle_of_endsWithinB_zero {s : State} (h : EndsWithinB 0 s) : s.b.seq = .idle := by
  cases hs : s.b.seq with
  | idle => rfl
  | exec e =>
    obtain ⟨hpos, _⟩ := h e hs
    exact absurd hpos (Nat.lt_irrefl 0)

/-- A primitive that has its level, if it samples one, is performed, and the command goes on with its script. -/
theorem primB_performed {p : PrimB} {s : State} (hlevel : [p].count .sample ≤ s.owline.length) (e : ExecB)
    (phase : PhaseB) :
    (∃ staged, (primB p e phase s).b.seq = .exec { e with phase := phase, staged := staged }) ∧
      s.owline.length = (primB p e phase s).owline.length + [p].count .sample := by
  rcases primB_cases p e phase s with
    ⟨rfl, howl, _⟩ | ⟨level, rest, rfl, howl, h⟩ | ⟨t, rfl, h⟩ | ⟨t, rfl, h⟩ | ⟨t, rfl, h⟩
  · rw [howl] at hlevel
    exact absurd hlevel (by decide)
  · rw [h, howl]
    exact ⟨⟨_, rfl⟩, rfl⟩
  all_goals
    rw [h]
    exact ⟨⟨_, rfl⟩, rfl⟩

theorem endsWithinB_slotStep {n : Nat} {s : State} {e : ExecB} {i : Instr} {act : ActB} {ops : List PrimB}
    (hs : s.b.seq = .exec e) (hd : decode .b e.op = .ok i) (hn : nextB i e = some act) (hops : act.ops = some ops)
    (h : EndsWithinB (n + 1) s) : EndsWithinB n (slotStep ops e s) := by
  obtain ⟨_, hscript⟩ := h e hs
  obtain ⟨hin, hturns, hlevels⟩ := hscript i hd
  have hline := script_getElem?_of_nextB hn hops
  have hsub := hin ops hline
  have hslot : slotStep ops e s = primB ops[e.phase.sub] e (e.phase.advance ops.length) s := by
    simp only [slotStep, List.getElem?_eq_getElem hsub]
  have hleft := primsLeft_eq_cons hline hsub
  have hcount : ∀ staged, (e.primsLeft i).count .sample = [ops[e.phase.sub]].count .sample +
      (ExecB.primsLeft { e with phase := e.phase.advance ops.length, staged := staged } i).count .sample := by
    intro staged
    rw [hleft staged, ← List.singleton_append, List.count_append]
  have hlevel : [ops[e.phase.sub]].count .sample ≤ s.owline.length := by
    have hfirst := hcount e.staged
    omega
  obtain ⟨⟨staged, hseq⟩, howl⟩ := primB_performed hlevel e (e.phase.advance ops.length)
  rw [hslot]
  intro e' he'
  cases hseq.symm.trans he'
  rw [hleft staged, List.length_cons] at hturns
  rw [hcount staged] at hlevels
  refine ⟨by omega, fun j hj => ?_⟩
  cases hd.symm.trans hj
  exact ⟨inScript_advance hline staged, by omega, by omega⟩

/-- A turn of channel B performs the next primitive of its command's script, or ends it. -/
theorem turn_chb_endsWithinB {n : Nat} {s : State} (h : EndsWithinB (n + 1) s) :
    ∃ t, turn .chb s = .next t ∧ t.schedule = s.schedule ∧ EndsWithinB n t := by
  rcases turn_chb_cases s with ⟨hs, hturn⟩ | ⟨e, hs, ⟨r, _, hturn⟩ | ⟨i, hd, hturn⟩⟩
  · exact ⟨s, hturn, rfl, endsWithinB_of_idle n hs⟩
  · exact ⟨_, hturn, rfl, endsWithinB_of_idle n rfl⟩
  · obtain ⟨act, hn, hexec⟩ := exec_currentB (place_of_decode hd) hs
    refine ⟨_, hturn.trans hexec, ?_⟩
    cases act with
    | slot ops | bus v =>
      obtain ⟨_, _, _, hschedule⟩ := slotStep_frame _ e s
      exact ⟨hschedule, endsWithinB_slotStep hs hd hn rfl h⟩
    | done c | raise code => exact ⟨rfl, endsWithinB_of_idle n rfl⟩

/-- Settles O60: an accepted word has the whole of its transactions, or of its script, before it. -/
theorem everyCommandCompletes : Obligations.EveryCommandCompletes := by
  refine ⟨fun s w args dev q hs hi2c hq => ?channelA, fun s w args q hs howl hq => ?channelB⟩
  case channelA =>
    have hneed : EndsWithinA 7 s := by
      intro e he
      cases hs.symm.trans he
      exact ⟨le_rfl, Nat.succ_le_succ hi2c⟩
    obtain ⟨t, hrun, hend⟩ := exists_run_of_turns (need := EndsWithinA)
      (fun n s q h => turn_cha_endsWithinA (s := { s with schedule := q }) h) 7 hneed hq
    exact ⟨7, t, le_rfl, hrun, idle_of_endsWithinA_zero hend⟩
  case channelB =>
    have hneed : EndsWithinB 3787 s := by
      intro e he
      cases hs.symm.trans he
      refine ⟨by decide, fun i _ => ⟨inScript_of_sub_zero rfl, ?_, ?_⟩⟩
      · exact Nat.succ_le_succ (length_script_le i args)
      · exact (count_sample_script_le i args).trans howl
    obtain ⟨t, hrun, hend⟩ := exists_run_of_turns (need := EndsWithinB)
      (fun n s q h => turn_chb_endsWithinB (s := { s with schedule := q }) h) 3787 hneed hq
    exact ⟨3787, t, le_rfl, hrun, idle_of_endsWithinB_zero hend⟩

end Sys2Proof.Machine
end

section
/-! O2. Block reset as a turn of the schedule (70_reset_and_hazards.md section 1). -/

namespace Sys2Proof.Machine

/-- A reset turn always answers: it is block reset with that turn used up, whatever was in flight. -/
theorem step_reset {s : State} {q : List Agent} (hq : s.schedule = .reset :: q) :
    step s = .next (blockReset { s with schedule := q }) := by
  simp only [step, hq, turn]

/-- Block reset field by field: nothing of either channel stays (R700), and nothing outside the block moves (R702). -/
theorem blockReset_eq (s : State) :
    blockReset s = { a := State.reset.a, b := State.reset.b, host := s.host, i2c := s.i2c, owline := s.owline, schedule := s.schedule } := rfl

/-- Settles O2: the turn is block reset, and of the rest of the state only that turn of the schedule is used up. -/
theorem blockResetTurn : Obligations.BlockResetTurn := by
  intro s q hq
  rw [step_reset hq, blockReset_eq]

end Sys2Proof.Machine
end
